-- ==== Sys2Proof/Word.lean ====
section
/-! DEFINITION. Word.lean: the unsigned widths of 00_scope.md R9. Arithmetic on them wraps modulo
2^8, 2^16 and 2^32; a nibble is an unsigned 4-bit value. A `Bit` of the spec is a `Bool`
(R9: a Bool is read as a Bit, true = 1). -/

namespace Sys2Proof

/-- `UInt8` of 00_scope.md R9. -/
abbrev Byte := BitVec 8

/-- `UInt16` of 00_scope.md R9: a time, a duration, an index, a checksum, a response. -/
abbrev Half := BitVec 16

/-- `UInt32` of 00_scope.md R9: a command word. -/
abbrev Word := BitVec 32

/-- `Nibble` of 00_scope.md R9: a debouncer countdown. -/
abbrev Nibble := BitVec 4

end Sys2Proof
end

