-- ==== Sys2Proof/Syntax.lean ====
section
/-! DEFINITION. Syntax.lean: one constructor per row of spec/opcode_table.json (30_encoding.md R82),
with the operands in the assembler's order (R87). -/

namespace Sys2Proof

/-- The seventeen commands of 30_encoding.md R82. An operand has the width of the field that carries
it (R80, R81), so every value of the type has an encoding. -/
inductive Instr where
  /-- `TM_SET t` (40_timer.md R101). -/
  | tmSet (t : Half)
  /-- `TM_MARK s` (40_timer.md R102). -/
  | tmMark (s : Byte)
  /-- `TM_ELAPSED s, d` (40_timer.md R103). -/
  | tmElapsed (s : Byte) (d : Half)
  /-- `DB_SAMPLE j, v` (41_debouncer.md R121). -/
  | dbSample (j : Half) (v : Byte)
  /-- `DB_TICK` (41_debouncer.md R122). -/
  | dbTick
  /-- `DB_RDSTABLE j` (41_debouncer.md R123). -/
  | dbRdstable (j : Half)
  /-- `DB_WRSTABLE j, v` (41_debouncer.md R124). -/
  | dbWrstable (j : Half) (v : Byte)
  /-- `CK_INIT` (42_checksum.md R165). -/
  | ckInit
  /-- `CK_UPDATE v` (42_checksum.md R166). -/
  | ckUpdate (v : Byte)
  /-- `CK_READ` (42_checksum.md R167). -/
  | ckRead
  /-- `CK_VERIFY e` (42_checksum.md R168). -/
  | ckVerify (e : Half)
  /-- `RX_ARM t` (43_receiver.md R191). -/
  | rxArm (t : Half)
  /-- `RX_BYTE v, t` (43_receiver.md R192). -/
  | rxByte (v : Byte) (t : Half)
  /-- `RX_POLL t` (43_receiver.md R194). -/
  | rxPoll (t : Half)
  /-- `RX_STATUS` (43_receiver.md R203). -/
  | rxStatus
  /-- `RX_CLRERR` (43_receiver.md R206). -/
  | rxClrerr
  /-- `RX_RDBUF k` (43_receiver.md R204). -/
  | rxRdbuf (k : Half)
  deriving DecidableEq, Repr

end Sys2Proof
end

