-- ==== Sys2Proof/Decode.lean ====
section
/-! DEFINITION. Decode.lean: the command format CMD32 (30_encoding.md R80, R81), the opcode map (R82),
the decode procedure (R86), and the encoder (R87). Decoding is total and rejects by name. -/

namespace Sys2Proof

/-- Why a command word is no command. Both are faults of the block (60_exceptions.md R250); the block
takes them and goes to its halted state, so both are safe. -/
inductive Reject where
  /-- `op` is not in the opcode map (30_encoding.md R85). -/
  | illegalCommand
  /-- A reserved field is nonzero (30_encoding.md R84). -/
  | reservedField
  deriving DecidableEq, Repr

/-- `op`, bits [31:24] (30_encoding.md R80). -/
def opField (w : Word) : Byte := w.extractLsb' 24 8

/-- `a`, bits [23:16] (30_encoding.md R80). -/
def aField (w : Word) : Byte := w.extractLsb' 16 8

/-- `b`, bits [15:0] (30_encoding.md R80). -/
def bField (w : Word) : Half := w.extractLsb' 0 16

/-- A row of the opcode map (30_encoding.md R82): its opcode, which of its fields are shown `0`, and
the command its operand fields make. -/
structure OpRow where
  op : Byte
  aReserved : Bool
  bReserved : Bool
  build : Byte → Half → Instr

/-- The opcode map of 30_encoding.md R82, row by row. -/
def opMap : List OpRow :=
  [ ⟨0x01, true,  false, fun _ b => .tmSet b⟩
  , ⟨0x02, false, true,  fun a _ => .tmMark a⟩
  , ⟨0x03, false, false, fun a b => .tmElapsed a b⟩
  , ⟨0x10, false, false, fun a b => .dbSample b a⟩
  , ⟨0x11, true,  true,  fun _ _ => .dbTick⟩
  , ⟨0x12, true,  false, fun _ b => .dbRdstable b⟩
  , ⟨0x13, false, false, fun a b => .dbWrstable b a⟩
  , ⟨0x20, true,  true,  fun _ _ => .ckInit⟩
  , ⟨0x21, false, true,  fun a _ => .ckUpdate a⟩
  , ⟨0x22, true,  true,  fun _ _ => .ckRead⟩
  , ⟨0x23, true,  false, fun _ b => .ckVerify b⟩
  , ⟨0x30, true,  false, fun _ b => .rxArm b⟩
  , ⟨0x31, false, false, fun a b => .rxByte a b⟩
  , ⟨0x32, true,  false, fun _ b => .rxPoll b⟩
  , ⟨0x33, true,  true,  fun _ _ => .rxStatus⟩
  , ⟨0x34, true,  true,  fun _ _ => .rxClrerr⟩
  , ⟨0x35, true,  false, fun _ b => .rxRdbuf b⟩ ]

/-- The decode procedure of 30_encoding.md R86: the opcode, then the reserved field `a`, then the
reserved field `b`; the first failing check decides. -/
def decode (cmd : Word) : Except Reject Instr :=
  match opMap.find? (fun r => r.op == opField cmd) with
  | none => .error .illegalCommand
  | some r =>
    if r.aReserved && aField cmd != 0 then .error .reservedField
    else if r.bReserved && bField cmd != 0 then .error .reservedField
    else .ok (r.build (aField cmd) (bField cmd))

/-- The command word with the fields `op`, `a`, `b` (30_encoding.md R80). -/
def commandWord (op a : Byte) (b : Half) : Word := op ++ a ++ b

/-- The command word of a command (30_encoding.md R87). -/
def encode : Instr → Word
  | .tmSet t => commandWord 0x01 0 t
  | .tmMark s => commandWord 0x02 s 0
  | .tmElapsed s d => commandWord 0x03 s d
  | .dbSample j v => commandWord 0x10 v j
  | .dbTick => commandWord 0x11 0 0
  | .dbRdstable j => commandWord 0x12 0 j
  | .dbWrstable j v => commandWord 0x13 v j
  | .ckInit => commandWord 0x20 0 0
  | .ckUpdate v => commandWord 0x21 v 0
  | .ckRead => commandWord 0x22 0 0
  | .ckVerify e => commandWord 0x23 0 e
  | .rxArm t => commandWord 0x30 0 t
  | .rxByte v t => commandWord 0x31 v t
  | .rxPoll t => commandWord 0x32 0 t
  | .rxStatus => commandWord 0x33 0 0
  | .rxClrerr => commandWord 0x34 0 0
  | .rxRdbuf k => commandWord 0x35 0 k

/-- The one command word whose low `nbits` bits are those of `w` and whose other bits are 0. A command
is one whole word and has no byte order (20_memory.md R68 d; assumption log 22). -/
def tableWord (nbits w : Nat) : Word := BitVec.ofNat 32 (w % 2 ^ nbits)

/-- The instruction the decoder reads from the opcode table's bits `w`. -/
def decodeTableWord (nbits w : Nat) : Option Instr :=
  match decode (tableWord nbits w) with
  | .ok i => some i
  | .error _ => none

end Sys2Proof
end

