-- ==== Sys2Proof/Machine/Memory.lean ====
section
/-! DEFINITION. Machine/Memory.lean: byte memory as a list of cells in one canonical form (addresses
strictly rising, no cell holding what an unlisted address reads as). The receive buffer is the only
space of the spec that is reached byte by byte (20_memory.md R63, R65). An unlisted address reads 0,
the reset value the spec gives every byte of RXBUF (10_state.md R36; assumption log 14). -/

namespace Sys2Proof.Machine

/-- Byte memory: the cells whose byte is not the unlisted one. -/
abbrev Memory := List Host.Cell

/-- What an unlisted address reads as (10_state.md R36). -/
def unlistedByte : Byte := 0

/-- `MemRead(RXBUF, off, 1)` (20_memory.md R65). -/
def memRead : Memory → Nat → Byte
  | [], _ => unlistedByte
  | (a, b) :: m, x => if a = x then b else memRead m x

/-- `MemWrite(RXBUF, off, 1, v)` (20_memory.md R65), keeping the canonical form. -/
def memWrite : Memory → Nat → Byte → Memory
  | [], x, v => if v = unlistedByte then [] else [(x, v)]
  | (a, b) :: m, x, v =>
    if x < a then (if v = unlistedByte then (a, b) :: m else (x, v) :: (a, b) :: m)
    else if x = a then (if v = unlistedByte then m else (x, v) :: m)
    else (a, b) :: memWrite m x v

/-- Every address of m lies above x. -/
def memAbove (x : Nat) (m : Memory) : Bool := m.all (fun cell => decide (x < cell.1))

/-- The canonical form. -/
def memWf : Memory → Bool
  | [] => true
  | (a, b) :: m => b != unlistedByte && memAbove a m && memWf m

end Sys2Proof.Machine
end

