-- ==== Sys2Proof/Config.lean ====
section
/-! DEFINITION. Config.lean: the configuration record of 00_scope.md R6, "fixed at reset" (10_state.md
R22). Every state of the machine carries one (assumption log 3), so that a statement about every
state is a statement about every configuration. -/

namespace Sys2Proof

/-- `CK_POLICY` (00_scope.md R6, 42_checksum.md R160). -/
inductive CkPolicy where
  | xor8
  | crc16
  deriving DecidableEq, Repr

/-- `IDLE_BYTE_POLICY` (00_scope.md R6, 92_eei_decisions.md D19). -/
inductive IdleBytePolicy where
  | startFrame
  | unexpected
  deriving DecidableEq, Repr

/-- The configuration record of 00_scope.md R6. A numeric field is a natural number, so that a value
outside its legal range can be written down and is refused at reset (R7). The fields the spec gives
a default have it; the OPEN ones have none. -/
structure Config where
  /-- `INPUT_COUNT` (N), OPEN, legal 1 .. 524288. -/
  inputCount : Nat
  /-- `ON_COUNT`, legal 1 .. 15. -/
  onCount : Nat := 4
  /-- `OFF_COUNT`, legal 1 .. 15. -/
  offCount : Nat := 4
  /-- `ALIAS_MODE`. -/
  aliasMode : Bool := false
  /-- `STABLE_INIT`, as bytes under the codec of 20_memory.md R60. -/
  stableInit : List Byte := List.replicate ((inputCount + 7) / 8) 0
  /-- `TIMER_SLOTS`, legal 1 .. 256. -/
  timerSlots : Nat := 4
  /-- `CK_POLICY`, OPEN. -/
  ckPolicy : CkPolicy
  /-- `CRC_INIT`, legal 0x0000 .. 0xFFFF. -/
  crcInit : Nat := 0
  /-- `T_START`, legal 0 .. 65535. -/
  tStart : Nat := 30
  /-- `T_GAP`, legal 0 .. 65535. -/
  tGap : Nat := 8
  /-- `RECV_BUFFER_SIZE`, OPEN, legal 4 .. 259. -/
  recvBufferSize : Nat
  /-- `BUS_ID`, OPEN, legal 0x00 .. 0xFE. -/
  busId : Nat
  /-- `IDLE_BYTE_POLICY`. -/
  idleBytePolicy : IdleBytePolicy := .startFrame
  /-- `ADDR_SANE`, OPEN: the (to, from) pairs the predicate refuses. Every total predicate on two
  bytes is one such list (assumption log 5). -/
  insanePairs : List (Byte × Byte)
  deriving DecidableEq, Repr

/-- The common configuration of 95_test_vectors.md (the parameters with defaults at their defaults).
DESIGN CHOICE (assumption log 4): the spec leaves INPUT_COUNT, CK_POLICY, RECV_BUFFER_SIZE, BUS_ID and
ADDR_SANE open; only `State.reset` uses this record. -/
def Config.reference : Config where
  inputCount := 8
  ckPolicy := .xor8
  recvBufferSize := 32
  busId := 1
  insanePairs := []

end Sys2Proof
end

