-- ==== Sys2Proof/Machine/Bits.lean ====
section
/-! DEFINITION. Machine/Bits.lean: the bit-vector codec BV (20_memory.md R60 to R62): a bit array is a
list of bytes, bit index i is bit i & 7 of byte i >> 3. -/

namespace Sys2Proof.Machine

/-- Byte j of a byte array. An index past its end reads 0; no command gives one (20_memory.md R60,
assumption log 13). -/
def byteAt (A : List Byte) (j : Nat) : Byte := A.getD j 0

/-- `BitRead(A, i)` (20_memory.md R60): `(A[i >> 3] >> (i & 7)) & 1`. -/
def bitRead (A : List Byte) (i : Nat) : Bool := (byteAt A (i / 8)).getLsbD (i % 8)

/-- `BitWrite(A, i, v)` (20_memory.md R61): the addressed bit becomes v, "no side effects beyond the
targeted bit". -/
def bitWrite (A : List Byte) (i : Nat) (v : Bool) : List Byte :=
  A.set (i / 8) ((byteAt A (i / 8) &&& ~~~(1#8 <<< (i % 8))) ||| ((BitVec.ofBool v).setWidth 8 <<< (i % 8)))

/-- Byte j of an array of n bits with its padding read as 0 (10_state.md R29): the spec's
`stableByte(j)`, the sum over k with `8j+k < N` of `A[8j+k] << k`. -/
def presentByte (n : Nat) (A : List Byte) (j : Nat) : Byte :=
  (List.range 8).foldl
    (fun b k => if 8 * j + k < n && bitRead A (8 * j + k) then b ||| (1#8 <<< k) else b) 0

end Sys2Proof.Machine
end

