-- ==== Sys2Proof/Machine/Params.lean ====
section
/-! DEFINITION. Machine/Params.lean: what the configuration record fixes: the derived parameters of
00_scope.md R6, the legality check of 60_exceptions.md R255, and the checks of an operand against its
array's size (60_exceptions.md R250, INDEX_RANGE). -/

namespace Sys2Proof.Machine

/-- `NB = ceil(N/8)` (00_scope.md R6). -/
def byteCount (c : Config) : Nat := (c.inputCount + 7) / 8

/-- `CK_LEN` (42_checksum.md R160). -/
def ckLen (c : Config) : Nat :=
  match c.ckPolicy with
  | .xor8 => 1
  | .crc16 => 2

/-- `ADDR_SANE(to, from)` (43_receiver.md R197). -/
def addrSane (c : Config) (toAddr fromAddr : Byte) : Bool := !c.insanePairs.contains (toAddr, fromAddr)

/-- `forUs(to)` (43_receiver.md R202). -/
def forUs (c : Config) (toAddr : Byte) : Bool := toAddr == 0xFF#8 || toAddr.toNat == c.busId

/-- The countdown C(x) a raw change to x loads (41_debouncer.md R121, R126). -/
def settleCount (c : Config) (x : Bool) : Nibble := BitVec.ofNat 4 (if x then c.onCount else c.offCount)

/-- STABLE_INIT as the debouncer sees it: NB bytes, padding bits 0 (10_state.md R28, R29). -/
def initialStable (c : Config) : List Byte :=
  (List.range (byteCount c)).map (presentByte c.inputCount c.stableInit)

/-- The legal values of STABLE_INIT: exactly NB bytes (60_exceptions.md R255), and every input's bit 0
outside alias mode (00_scope.md R6; assumption log 11). -/
def stableInitLegal (c : Config) : Bool :=
  c.stableInit.length == byteCount c
    && (c.aliasMode || initialStable c == List.replicate (byteCount c) 0)

/-- The configuration check made at reset (60_exceptions.md R255): every range of 00_scope.md R6. -/
def configLegal (c : Config) : Bool :=
  decide (1 ≤ c.inputCount) && decide (c.inputCount ≤ 524288)
    && decide (1 ≤ c.onCount) && decide (c.onCount ≤ 15)
    && decide (1 ≤ c.offCount) && decide (c.offCount ≤ 15)
    && stableInitLegal c
    && decide (1 ≤ c.timerSlots) && decide (c.timerSlots ≤ 256)
    && decide (c.crcInit ≤ 65535)
    && decide (c.tStart ≤ 65535) && decide (c.tGap ≤ 65535)
    && decide (4 ≤ c.recvBufferSize) && decide (c.recvBufferSize ≤ 259)
    && decide (c.busId ≤ 254)

/-- A debouncer byte index j names a byte: `j < NB` (41_debouncer.md R121, R123, R124). -/
def byteIndexInRange (c : Config) (j : Half) : Bool := decide (j.toNat < byteCount c)

/-- A slot s names a mark: `s < TIMER_SLOTS` (40_timer.md R102, R103). -/
def slotInRange (c : Config) (s : Byte) : Bool := decide (s.toNat < c.timerSlots)

/-- An offset k names a byte of RXBUF: `k < RECV_BUFFER_SIZE` (43_receiver.md R204). -/
def offsetInRange (c : Config) (k : Half) : Bool := decide (k.toNat < c.recvBufferSize)

end Sys2Proof.Machine
end

