-- ==== Sys2Proof/Machine/Policy.lean ====
section
/-! DEFINITION. Machine/Policy.lean: the checksum policy functions (42_checksum.md R160 to R164), used
by the checksum generator, by the receiver and by the sender's frame encoding. The CRC16 parameters
are the spec's own, supplied from general knowledge (93_implementation_defined.md G1 to G3;
assumption log 21). -/

namespace Sys2Proof.Machine

/-- `ckInit()` (42_checksum.md R161). -/
def checksumStart (c : Config) : Half :=
  match c.ckPolicy with
  | .xor8 => 0
  | .crc16 => BitVec.ofNat 16 c.crcInit

/-- One of the eight repetitions of 42_checksum.md R163. -/
def crcShift (acc : Half) : Half :=
  if acc.getLsbD 15 then (acc <<< 1) ^^^ 0x1021#16 else acc <<< 1

/-- `ckUpdate` under `CRC16` (42_checksum.md R163). -/
def crcUpdate (acc : Half) (v : Byte) : Half :=
  Nat.repeat crcShift 8 (acc ^^^ (v.setWidth 16 <<< 8))

/-- `ckUpdate(acc, v)` (42_checksum.md R162, R163). -/
def checksumFold (c : Config) (acc : Half) (v : Byte) : Half :=
  match c.ckPolicy with
  | .xor8 => acc ^^^ v.setWidth 16
  | .crc16 => crcUpdate acc v

/-- `ckVerify(expected, computed)` (42_checksum.md R164). -/
def checksumVerify (c : Config) (expected computed : Half) : Bool :=
  match c.ckPolicy with
  | .xor8 => (expected ^^^ computed) &&& 0xFF#16 == 0
  | .crc16 => expected == computed

/-- The checksum of a list of bytes: `ckInit`, then `ckUpdate` for each (42_checksum.md R172). -/
def checksumOf (c : Config) (bytes : List Byte) : Half := bytes.foldl (checksumFold c) (checksumStart c)

end Sys2Proof.Machine
end

