-- ==== Sys2Proof/Machine/State.lean ====
section
/-! DEFINITION. Machine/State.lean: the architectural state of 10_state.md, what it is after reset
(70_reset_and_hazards.md R280, R281), and the reasons a step can stop. -/

namespace Sys2Proof.Machine

/-- `RXSTATE` (10_state.md R32). `complete` exists only inside one RX_BYTE command. -/
inductive RxState where
  | idle
  | awaitStart
  | header
  | payload
  | checksum
  | complete
  deriving DecidableEq, Repr

/-- The receive error codes (10_state.md R39). -/
inductive ErrCode where
  | errNone
  | errChecksum
  | errLong
  | errTimeout
  | errTimeoutStart
  | errUnexpected
  deriving DecidableEq, Repr

/-- The fault codes of the block (60_exceptions.md R250). A fault is a state of the block, entered and
left as the spec says (R251, R252, R256): it is not an outcome of a step (assumption log 6). -/
inductive FaultCode where
  | illegalCommand
  | reservedField
  | indexRange
  | armNotIdle
  | notAliasMode
  | badConfig
  deriving DecidableEq, Repr

/-- An event record (10_state.md R42). -/
inductive Event where
  | dbChange (input : Nat) (level : Bool)
  | dbByte (byteIndex : Nat) (state mask : Byte)
  | rxError (code : ErrCode)
  | rxFrame (toAddr fromAddr len : Byte) (payload : List Byte) (forUs : Bool)
  deriving DecidableEq, Repr

/-- What the host gives the block: a command word (10_state.md R20), or a reset with a configuration
record (70_reset_and_hazards.md R280). -/
inductive HostInput where
  | command (w : Word)
  | reset (c : Config)
  deriving DecidableEq, Repr

/-- Why a step ends without a next state. The type is empty: 60_exceptions.md R250 gives all faults of
the block, and each is a next state (R251; assumption log 6), so nothing raises an outcome of this
type. Safe: the model never stops. -/
inductive Fault where
  deriving DecidableEq, Repr

/-- Why a step is refused. -/
inductive Refusal where
  /-- Raised only by an arm of `exec` that rejects its instruction by name. No arm does. Safe: it would
  stop the model where the block goes on. -/
  | notModelled (mnemonic : String)
  deriving DecidableEq, Repr

/-- The state of the block (10_state.md), the configuration it was reset with (R22), what the host has
issued and the block has not consumed (R20), and the response port (R43). -/
structure State where
  /-- The configuration record of 00_scope.md R6, fixed at reset (assumption log 3). -/
  cfg : Config
  /-- Issued by the host and not yet consumed, oldest first. The model's own field (assumption log 1). -/
  inputs : List HostInput
  /-- `NOW` (R23). -/
  now : Half
  /-- `MARK` (R24). -/
  mark : List Half
  /-- `RAW` (R25), in NB bytes (R29). -/
  raw : List Byte
  /-- `CHG` (R26), in NB bytes (R29). -/
  chg : List Byte
  /-- `CNT` (R27), one nibble an input (assumption log 15). -/
  cnt : List Nibble
  /-- `STABLE` (R28), in NB bytes (R29). -/
  stable : List Byte
  /-- `TXACC` (R31). -/
  txAcc : Half
  /-- `RXSTATE` (R32). -/
  rxState : RxState
  /-- `RXMARK` (R33). -/
  rxMark : Half
  /-- `RXPOS` (R34). -/
  rxPos : Byte
  /-- `RXLEN` (R35). -/
  rxLen : Byte
  /-- `RXBUF` (R36). -/
  rxBuf : Memory
  /-- `RXACC` (R37). -/
  rxAcc : Half
  /-- `RXCK` (R37). -/
  rxCk : Half
  /-- `LASTERR` (R38). -/
  lastErr : ErrCode
  /-- `ERRFLAGS` (R38), bit (code - 1) for codes 1 .. 5. -/
  errFlags : BitVec 5
  /-- `FRAME_VALID` (R38). -/
  frameValid : Bool
  /-- `EV` (R41), oldest first. -/
  ev : List Event
  /-- `FAULT` (R44). -/
  fault : Option FaultCode
  /-- `FAULT_WORD` (R44). -/
  faultWord : Word
  /-- The response of the step just made (R43). The model's own field (assumption log 7). -/
  response : Option Half
  deriving DecidableEq, Repr

/-- The block right after a reset with the configuration c (70_reset_and_hazards.md R280, R281). -/
def State.resetWith (c : Config) : State where
  cfg := c
  inputs := []
  now := 0
  mark := List.replicate c.timerSlots 0
  raw := List.replicate (byteCount c) 0
  chg := List.replicate (byteCount c) 0
  cnt := List.replicate c.inputCount 0
  stable := if c.aliasMode then initialStable c else List.replicate (byteCount c) 0
  txAcc := checksumStart c
  rxState := .idle
  rxMark := 0
  rxPos := 0
  rxLen := 0
  rxBuf := []
  rxAcc := 0
  rxCk := 0
  lastErr := .errNone
  errFlags := 0
  frameValid := false
  ev := []
  fault := if configLegal c then none else some .badConfig
  faultWord := 0
  response := none

/-- The block right after a reset with the reference configuration (assumption log 4). -/
def State.reset : State := State.resetWith Config.reference

end Sys2Proof.Machine
end

