-- ==== Sys2Proof/Machine/Ops.lean ====
section
/-! DEFINITION. Machine/Ops.lean: the named operations over the state: how a command completes, how a
fault is entered and how the halted state is left, the event stream, and the reads and writes of the
block's arrays. -/

namespace Sys2Proof.Machine

/-- What a step or a meaning answers. -/
abbrev Result := Host.Outcome State Fault Refusal

/-- A command completes with the response v (10_state.md R43; `respond v` of 00_scope.md R10). -/
def respond (v : Half) (s : State) : Result := .next { s with response := some v }

/-- FAULT ENTRY (60_exceptions.md R251), for every fault a command word raises: FAULT and FAULT_WORD are
written, no other state changes, no event is appended and no response is returned. -/
def takeFault (code : FaultCode) (cmd : Word) (s : State) : Result :=
  .next { s with fault := some code, faultWord := cmd, response := none }

/-- LEAVING A FAULT (60_exceptions.md R256): reset, which takes a configuration and keeps nothing of the
state before it (70_reset_and_hazards.md R280). What the host has issued after it is the host's. -/
def leaveFault (c : Config) (s : State) : Result :=
  .next { State.resetWith c with inputs := s.inputs }

/-- `emit E` (00_scope.md R10): append E to EV. -/
def State.emit (s : State) (e : Event) : State := { s with ev := s.ev ++ [e] }

/-- `gap16(t, m) = (t - m) mod 2^16` (40_timer.md R100). -/
def gap16 (t m : Half) : Half := t - m

/-- A time t lies within a window of w time units of the mark m: `gap16(t, m) <= w` (43_receiver.md
R193). -/
def withinWindow (t m : Half) (w : Nat) : Bool := decide ((gap16 t m).toNat ≤ w)

/-- `MARK[k]`. -/
def State.readMark (s : State) (k : Nat) : Half := s.mark.getD k 0

/-- `MARK[k] <- t`. -/
def State.writeMark (s : State) (k : Nat) (t : Half) : State := { s with mark := s.mark.set k t }

/-- `BitRead(RAW, i)`. -/
def State.readRaw (s : State) (i : Nat) : Bool := bitRead s.raw i

/-- `BitWrite(RAW, i, v)`. -/
def State.writeRaw (s : State) (i : Nat) (v : Bool) : State := { s with raw := bitWrite s.raw i v }

/-- `BitRead(CHG, i)`. -/
def State.readChg (s : State) (i : Nat) : Bool := bitRead s.chg i

/-- `BitWrite(CHG, i, v)`. -/
def State.writeChg (s : State) (i : Nat) (v : Bool) : State := { s with chg := bitWrite s.chg i v }

/-- `CNT[i]`. -/
def State.readCnt (s : State) (i : Nat) : Nibble := s.cnt.getD i 0

/-- `CNT[i] <- n`. -/
def State.writeCnt (s : State) (i : Nat) (n : Nibble) : State := { s with cnt := s.cnt.set i n }

/-- `BitRead(STABLE, i)`. -/
def State.readStable (s : State) (i : Nat) : Bool := bitRead s.stable i

/-- `BitWrite(STABLE, i, v)`. -/
def State.writeStable (s : State) (i : Nat) (v : Bool) : State :=
  { s with stable := bitWrite s.stable i v }

/-- `stableByte(j)` (41_debouncer.md, introduction). -/
def State.stableByte (s : State) (j : Nat) : Byte := presentByte s.cfg.inputCount s.stable j

/-- `MemRead(RXBUF, off, 1)` (20_memory.md R65). -/
def State.readBuf (s : State) (off : Nat) : Byte := memRead s.rxBuf off

/-- `MemWrite(RXBUF, off, 1, v)` (20_memory.md R65). There is no byte at an offset of
RECV_BUFFER_SIZE or more, and no rule writes there (assumption log 13). -/
def State.writeBuf (s : State) (off : Nat) (v : Byte) : State :=
  if off < s.cfg.recvBufferSize then { s with rxBuf := memWrite s.rxBuf off v } else s

end Sys2Proof.Machine
end

