-- ==== Sys2Proof/Machine/Flags.lean ====
section
/-! DEFINITION. Machine/Flags.lean: the codes and flags software sees: RXSTATE and LASTERR codes
(10_state.md R32, R39), the sticky error flags (R38), the status word (R40), and the fault numbers
(60_exceptions.md R250). -/

namespace Sys2Proof.Machine

/-- The code of a receiver state (10_state.md R32). -/
def rxStateCode : RxState → BitVec 3
  | .idle => 0
  | .awaitStart => 1
  | .header => 2
  | .payload => 3
  | .checksum => 4
  | .complete => 5

/-- The code of a receive error (10_state.md R39). -/
def errNumber : ErrCode → BitVec 3
  | .errNone => 0
  | .errChecksum => 1
  | .errLong => 2
  | .errTimeout => 3
  | .errTimeoutStart => 4
  | .errUnexpected => 5

/-- The sticky flag of a receive error: bit (code - 1) of ERRFLAGS (10_state.md R38). errNone has
none. -/
def errFlag : ErrCode → BitVec 5
  | .errNone => 0
  | .errChecksum => 1#5 <<< 0
  | .errLong => 1#5 <<< 1
  | .errTimeout => 1#5 <<< 2
  | .errTimeoutStart => 1#5 <<< 3
  | .errUnexpected => 1#5 <<< 4

/-- The code of a fault (60_exceptions.md R250). -/
def faultNumber : FaultCode → Nat
  | .illegalCommand => 1
  | .reservedField => 2
  | .indexRange => 3
  | .armNotIdle => 4
  | .notAliasMode => 5
  | .badConfig => 6

/-- `report(code)` (43_receiver.md R200). -/
def State.report (s : State) (code : ErrCode) : State :=
  { s with lastErr := code, errFlags := s.errFlags ||| errFlag code, ev := s.ev ++ [.rxError code] }

/-- The status word (10_state.md R40, 43_receiver.md R203). -/
def statusWord (s : State) : Half :=
  (rxStateCode s.rxState).setWidth 16
    ||| ((errNumber s.lastErr).setWidth 16 <<< 3)
    ||| ((BitVec.ofBool s.frameValid).setWidth 16 <<< 6)
    ||| (s.errFlags.setWidth 16 <<< 8)

/-- The response word of a one-bit answer (00_scope.md R9: true = 1). -/
def boolResponse (b : Bool) : Half := if b then 1 else 0

end Sys2Proof.Machine
end

