-- ==== Sys2Proof/Machine/Checksum.lean ====
section
/-! DEFINITION. Machine/Checksum.lean: the checksum generator's commands (42_checksum.md R165 to R168)
over the policy functions of Machine/Policy.lean. -/

namespace Sys2Proof.Machine

/-- CK_INIT (42_checksum.md R165). -/
def execCkInit (s : State) : Result := respond 0 { s with txAcc := checksumStart s.cfg }

/-- CK_UPDATE (42_checksum.md R166). -/
def execCkUpdate (v : Byte) (s : State) : Result :=
  respond 0 { s with txAcc := checksumFold s.cfg s.txAcc v }

/-- CK_READ (42_checksum.md R167). -/
def execCkRead (s : State) : Result := respond s.txAcc s

/-- CK_VERIFY (42_checksum.md R168). -/
def execCkVerify (e : Half) (s : State) : Result :=
  respond (boolResponse (checksumVerify s.cfg e s.txAcc)) s

end Sys2Proof.Machine
end

