-- ==== Sys2Proof/Machine/Operands.lean ====
section
/-! DEFINITION. Machine/Operands.lean: the three index operands of the command format (30_encoding.md
R81), each checked against its array before the command does anything (30_encoding.md R86,
60_exceptions.md R253, R254). -/

namespace Sys2Proof.Machine

/-- Go on with k if the index operand of i is in range, else raise INDEX_RANGE (60_exceptions.md
R250). -/
def requireIndex (inRange : Bool) (i : Instr) (s : State) (k : State → Result) : Result :=
  if inRange then k s else takeFault .indexRange (encode i) s

/-- The timer slot s of the command i. -/
def withSlot (slot : Byte) (i : Instr) (s : State) (k : State → Result) : Result :=
  requireIndex (slotInRange s.cfg slot) i s k

/-- The debouncer byte index j of the command i. -/
def withByteIndex (j : Half) (i : Instr) (s : State) (k : State → Result) : Result :=
  requireIndex (byteIndexInRange s.cfg j) i s k

/-- The receive-buffer offset of the command i. -/
def withOffset (off : Half) (i : Instr) (s : State) (k : State → Result) : Result :=
  requireIndex (offsetInRange s.cfg off) i s k

end Sys2Proof.Machine
end

