-- ==== Sys2Proof/Machine/Debouncer.lean ====
section
/-! DEFINITION. Machine/Debouncer.lean: the debouncer (41_debouncer.md). The loops run over byte indices
and over bits in ascending order, as the pseudocode's do. -/

namespace Sys2Proof.Machine

/-- The body of DB_SAMPLE's loop for bit k of the sample v at byte index j (41_debouncer.md R121). -/
def sampleBit (j : Nat) (v : Byte) (s : State) (k : Nat) : State :=
  let i := 8 * j + k
  let x := v.getLsbD k
  if i < s.cfg.inputCount && x != s.readRaw i then
    ((s.writeRaw i x).writeChg i true).writeCnt i (settleCount s.cfg x)
  else s

/-- DB_SAMPLE's loop (41_debouncer.md R121). -/
def sampleByte (j : Nat) (v : Byte) (s : State) : State := (List.range 8).foldl (sampleBit j v) s

/-- DB_SAMPLE (41_debouncer.md R121). -/
def execDbSample (j : Half) (v : Byte) (s : State) : Result :=
  withByteIndex j (.dbSample j v) s fun s => respond 0 (sampleByte j.toNat v s)

/-- The expiry of input i (41_debouncer.md R122): the change flag is cleared, the stable bit takes the
raw value, and the change is reported, whether or not the level differs (R131). -/
def expireInput (i : Nat) (s : State) : State :=
  let level := s.readRaw i
  ((s.writeChg i false).writeStable i level).emit (.dbChange i level)

/-- The body of DB_TICK's inner loop for bit k of byte j, over the state and the byte's mask
(41_debouncer.md R122). -/
def tickBit (j : Nat) (sm : State × Byte) (k : Nat) : State × Byte :=
  let i := 8 * j + k
  let s := sm.1
  if i < s.cfg.inputCount && s.readChg i then
    let s := s.writeCnt i (s.readCnt i - 1)
    if s.readCnt i = 0 then (expireInput i s, sm.2 ||| (1#8 <<< k)) else (s, sm.2)
  else sm

/-- The body of DB_TICK's outer loop for byte j (41_debouncer.md R122). -/
def tickByte (s : State) (j : Nat) : State :=
  let sm := (List.range 8).foldl (tickBit j) (s, 0)
  if sm.2 = 0 then sm.1 else sm.1.emit (.dbByte j (sm.1.stableByte j) sm.2)

/-- DB_TICK's loops (41_debouncer.md R122). -/
def tickAll (s : State) : State := (List.range (byteCount s.cfg)).foldl tickByte s

/-- DB_TICK (41_debouncer.md R122). -/
def execDbTick (s : State) : Result := respond 0 (tickAll s)

/-- DB_RDSTABLE (41_debouncer.md R123). -/
def execDbRdstable (j : Half) (s : State) : Result :=
  withByteIndex j (.dbRdstable j) s fun s => respond ((s.stableByte j.toNat).setWidth 16) s

/-- The body of DB_WRSTABLE's loop (41_debouncer.md R124). -/
def writeStableBit (j : Nat) (v : Byte) (s : State) (k : Nat) : State :=
  if 8 * j + k < s.cfg.inputCount then s.writeStable (8 * j + k) (v.getLsbD k) else s

/-- DB_WRSTABLE's loop (41_debouncer.md R124). -/
def writeStableByte (j : Nat) (v : Byte) (s : State) : State :=
  (List.range 8).foldl (writeStableBit j v) s

/-- DB_WRSTABLE (41_debouncer.md R124). -/
def execDbWrstable (j : Half) (v : Byte) (s : State) : Result :=
  withByteIndex j (.dbWrstable j v) s fun s =>
    if s.cfg.aliasMode then respond 0 (writeStableByte j.toNat v s)
    else takeFault .notAliasMode (encode (.dbWrstable j v)) s

end Sys2Proof.Machine
end

