-- ==== Sys2Proof/Machine/Receiver.lean ====
section
/-! DEFINITION. Machine/Receiver.lean: the byte-framed serial receiver (43_receiver.md): its reception
procedures (R195 to R201) and its commands. -/

namespace Sys2Proof.Machine

/-- `RXSTATE <- IDLE; RXPOS <- 0`, the end of every reception (43_receiver.md R192, R194, R197, R198,
R201). -/
def State.toIdle (s : State) : State := { s with rxState := .idle, rxPos := 0 }

/-- `startFrame(v, t)` (43_receiver.md R195). -/
def startFrame (v : Byte) (t : Half) (s : State) : State :=
  let s := { s with frameValid := false }
  let s := s.writeBuf 0 0x00
  let s := s.writeBuf 2 v
  { s with
    rxAcc := checksumFold s.cfg (checksumStart s.cfg) v
    rxPos := 1
    rxMark := t
    rxState := .header }

/-- `addressCheck()` (43_receiver.md R197). -/
def addressCheck (s : State) : State :=
  if addrSane s.cfg (s.readBuf 2) (s.readBuf 3) then s else (s.report .errUnexpected).toIdle

/-- `lengthCheck(len)` (43_receiver.md R198). The sum is exact: RECV_BUFFER_SIZE can be 259
(assumption log 12). -/
def lengthCheck (len : Byte) (s : State) : State :=
  if len.toNat + 4 > s.cfg.recvBufferSize then (s.report .errLong).toIdle else s

/-- The `from` byte of a header (43_receiver.md R196). -/
def acceptFrom (v : Byte) (s : State) : State :=
  let s := addressCheck (s.writeBuf 3 v)
  if s.rxState = .header then { s with rxPos := 2 } else s

/-- The `len` byte of a header (43_receiver.md R196). -/
def acceptLen (v : Byte) (s : State) : State :=
  let s := lengthCheck v (s.writeBuf 1 v)
  if s.rxState = .header then
    { s with rxLen := v, rxPos := 0, rxState := if v = 0 then .checksum else .payload }
  else s

/-- `acceptByte(v)` in HEADER (43_receiver.md R196). -/
def acceptHeader (v : Byte) (s : State) : State :=
  let s := { s with rxAcc := checksumFold s.cfg s.rxAcc v }
  if s.rxPos = 1 then acceptFrom v s else acceptLen v s

/-- `acceptByte(v)` in PAYLOAD (43_receiver.md R199). -/
def acceptPayload (v : Byte) (s : State) : State :=
  let s := { s with rxAcc := checksumFold s.cfg s.rxAcc v }
  let s := s.writeBuf (4 + s.rxPos.toNat) v
  let s := { s with rxPos := s.rxPos + 1 }
  if s.rxPos = s.rxLen then { s with rxPos := 0, rxState := .checksum } else s

/-- The RxFrame record of the frame in RXBUF (43_receiver.md R201, R202). -/
def frameEvent (s : State) : Event :=
  .rxFrame (s.readBuf 2) (s.readBuf 3) (s.readBuf 1)
    ((List.range (s.readBuf 1).toNat).map fun k => s.readBuf (4 + k)) (forUs s.cfg (s.readBuf 2))

/-- The delivery of a good frame (43_receiver.md R201). -/
def deliver (s : State) : State :=
  { s with lastErr := .errNone, frameValid := true }.emit (frameEvent s)

/-- `complete()` (43_receiver.md R201). -/
def complete (s : State) : State :=
  let s := { s with rxState := .complete }
  let s := if checksumVerify s.cfg s.rxCk s.rxAcc then deliver s else s.report .errChecksum
  s.toIdle

/-- `acceptByte(v)` in CHECKSUM (43_receiver.md R201): the CRC's high byte comes first. -/
def acceptChecksum (v : Byte) (s : State) : State :=
  if ckLen s.cfg = 1 then complete { s with rxCk := v.setWidth 16 }
  else if s.rxPos = 0 then { s with rxCk := v.setWidth 16 <<< 8, rxPos := 1 }
  else complete { s with rxCk := s.rxCk ||| v.setWidth 16 }

/-- `acceptByte(v)` by receiver state (43_receiver.md R196, R199, R201). -/
def acceptByte (v : Byte) (s : State) : State :=
  match s.rxState with
  | .idle => s
  | .awaitStart => s
  | .header => acceptHeader v s
  | .payload => acceptPayload v s
  | .checksum => acceptChecksum v s
  | .complete => s

/-- `lateByte(v, t)` (43_receiver.md R192). -/
def lateByte (v : Byte) (t : Half) (s : State) : State :=
  match s.cfg.idleBytePolicy with
  | .startFrame => startFrame v t s
  | .unexpected => s

/-- A byte in IDLE (43_receiver.md R192). -/
def idleByte (v : Byte) (t : Half) (s : State) : State :=
  match s.cfg.idleBytePolicy with
  | .startFrame => startFrame v t s
  | .unexpected => s.report .errUnexpected

/-- A byte in AWAIT_START (43_receiver.md R192). -/
def awaitedByte (v : Byte) (t : Half) (s : State) : State :=
  if withinWindow t s.rxMark s.cfg.tStart then startFrame v t s
  else lateByte v t (s.report .errTimeoutStart).toIdle

/-- A byte in HEADER, PAYLOAD or CHECKSUM (43_receiver.md R192). -/
def frameByte (v : Byte) (t : Half) (s : State) : State :=
  if withinWindow t s.rxMark s.cfg.tGap then acceptByte v { s with rxMark := t }
  else lateByte v t (s.report .errTimeout).toIdle

/-- The effect of a received byte by receiver state (43_receiver.md R192). COMPLETE is never held
between commands; R205 leaves the state unchanged there (assumption log 13). -/
def receiveByte (v : Byte) (t : Half) (s : State) : State :=
  match s.rxState with
  | .idle => idleByte v t s
  | .awaitStart => awaitedByte v t s
  | .header => frameByte v t s
  | .payload => frameByte v t s
  | .checksum => frameByte v t s
  | .complete => s

/-- The polled check of the inter-byte window (43_receiver.md R194). -/
def pollGap (t : Half) (s : State) : State :=
  if withinWindow t s.rxMark s.cfg.tGap then s else (s.report .errTimeout).toIdle

/-- The polled check of the start-byte window (43_receiver.md R194; it writes RXSTATE alone). -/
def pollStart (t : Half) (s : State) : State :=
  if withinWindow t s.rxMark s.cfg.tStart then s
  else { s.report .errTimeoutStart with rxState := .idle }

/-- The effect of a poll by receiver state (43_receiver.md R194). -/
def pollWindows (t : Half) (s : State) : State :=
  match s.rxState with
  | .idle => s
  | .awaitStart => pollStart t s
  | .header => pollGap t s
  | .payload => pollGap t s
  | .checksum => pollGap t s
  | .complete => s

/-- RX_ARM (43_receiver.md R191). -/
def execRxArm (t : Half) (s : State) : Result :=
  if s.rxState = .idle then respond 0 { s with rxState := .awaitStart, rxMark := t, rxPos := 0 }
  else takeFault .armNotIdle (encode (.rxArm t)) s

/-- RX_BYTE (43_receiver.md R192). -/
def execRxByte (v : Byte) (t : Half) (s : State) : Result := respond 0 (receiveByte v t s)

/-- RX_POLL (43_receiver.md R194). -/
def execRxPoll (t : Half) (s : State) : Result := respond 0 (pollWindows t s)

/-- RX_STATUS (43_receiver.md R203). -/
def execRxStatus (s : State) : Result := respond (statusWord s) s

/-- RX_CLRERR (43_receiver.md R206). -/
def execRxClrerr (s : State) : Result := respond 0 { s with errFlags := 0, lastErr := .errNone }

/-- RX_RDBUF (43_receiver.md R204). -/
def execRxRdbuf (k : Half) (s : State) : Result :=
  withOffset k (.rxRdbuf k) s fun s => respond ((s.readBuf k.toNat).setWidth 16) s

end Sys2Proof.Machine
end

