-- ==== Sys2Proof/Machine/Timer.lean ====
section
/-! DEFINITION. Machine/Timer.lean: the elapsed-time unit (40_timer.md). -/

namespace Sys2Proof.Machine

/-- TM_SET (40_timer.md R101). -/
def execTmSet (t : Half) (s : State) : Result := respond 0 { s with now := t }

/-- TM_MARK (40_timer.md R102). -/
def execTmMark (slot : Byte) (s : State) : Result :=
  withSlot slot (.tmMark slot) s fun s => respond 0 (s.writeMark slot.toNat s.now)

/-- TM_ELAPSED (40_timer.md R103): the response 1 re-arms the mark at NOW, the response 0 changes
nothing. -/
def execTmElapsed (slot : Byte) (d : Half) (s : State) : Result :=
  withSlot slot (.tmElapsed slot d) s fun s =>
    if d.toNat ≤ (gap16 s.now (s.readMark slot.toNat)).toNat then
      respond 1 (s.writeMark slot.toNat s.now)
    else respond 0 s

end Sys2Proof.Machine
end

