-- ==== Sys2Proof/Machine/Dispatch.lean ====
section
/-! DEFINITION. Machine/Dispatch.lean: one arm per command (30_encoding.md R82). -/

namespace Sys2Proof.Machine

def exec (i : Instr) (s : State) : Host.Outcome State Fault Refusal :=
  match i with
  | .tmSet t => Sys2Proof.Machine.execTmSet t s
  | .tmMark slot => Sys2Proof.Machine.execTmMark slot s
  | .tmElapsed slot d => Sys2Proof.Machine.execTmElapsed slot d s
  | .dbSample j v => Sys2Proof.Machine.execDbSample j v s
  | .dbTick => Sys2Proof.Machine.execDbTick s
  | .dbRdstable j => Sys2Proof.Machine.execDbRdstable j s
  | .dbWrstable j v => Sys2Proof.Machine.execDbWrstable j v s
  | .ckInit => Sys2Proof.Machine.execCkInit s
  | .ckUpdate v => Sys2Proof.Machine.execCkUpdate v s
  | .ckRead => Sys2Proof.Machine.execCkRead s
  | .ckVerify e => Sys2Proof.Machine.execCkVerify e s
  | .rxArm t => Sys2Proof.Machine.execRxArm t s
  | .rxByte v t => Sys2Proof.Machine.execRxByte v t s
  | .rxPoll t => Sys2Proof.Machine.execRxPoll t s
  | .rxStatus => Sys2Proof.Machine.execRxStatus s
  | .rxClrerr => Sys2Proof.Machine.execRxClrerr s
  | .rxRdbuf k => Sys2Proof.Machine.execRxRdbuf k s

end Sys2Proof.Machine
end

