-- ==== Sys2Proof/Machine/Port.lean ====
section
/-! DEFINITION. Machine/Port.lean: the host's channel into the block: one input a step, in issue order
(10_state.md R20), the halted state (60_exceptions.md R252), decoding and its two faults
(30_encoding.md R84 to R86), and reset (70_reset_and_hazards.md R280). -/

namespace Sys2Proof.Machine

/-- The fault a rejected command word raises (60_exceptions.md R250). -/
def rejectFault : Reject → FaultCode
  | .illegalCommand => .illegalCommand
  | .reservedField => .reservedField

/-- A command word reaches a running block (30_encoding.md R86). -/
def performCommand (cmd : Word) (s : State) : Result :=
  match decode cmd with
  | .ok i => exec i s
  | .error r => takeFault (rejectFault r) cmd s

/-- A command word reaches the block: halted, it performs nothing and has no response
(60_exceptions.md R252). -/
def acceptCommand (cmd : Word) (s : State) : Result :=
  if s.fault.isSome then .next { s with response := none } else performCommand cmd s

/-- The next host input, consumed; without one nothing changes (60_exceptions.md R263). -/
def serve (s : State) : Result :=
  match s.inputs with
  | [] => .next s
  | .command cmd :: rest => acceptCommand cmd { s with inputs := rest }
  | .reset c :: rest => leaveFault c { s with inputs := rest }

/-- The host issues an input ahead of all it has issued and the block has not consumed. -/
def State.issueFirst (s : State) (x : HostInput) : State := { s with inputs := x :: s.inputs }

end Sys2Proof.Machine
end

