-- ==== Sys2Proof/Machine/Step.lean ====
section
/-! DEFINITION. Machine/Step.lean: one step of the block (00_scope.md R3), and how the host issues a
command word (assumption log 1). -/

namespace Sys2Proof.Machine

/-- One step: the oldest host input is consumed and performed (10_state.md R20). -/
def step (s : State) : Host.Outcome State Fault Refusal := serve s

/-- s with the command word of the table's bits w issued next. -/
def State.withFetchWord (s : State) (nbits w : Nat) : State := s.issueFirst (.command (tableWord nbits w))

end Sys2Proof.Machine
end

