-- ==== Sys2Proof/Machine/Assembler.lean ====
section
/-! DEFINITION. Machine/Assembler.lean: the assembler's syntax (30_encoding.md R87) and the four
pseudo-instructions (R88). An operand that does not fit its field is an assembly error, not a
truncation: the answer is none. What R87 leaves open about the text is assumption log 17. -/

namespace Sys2Proof.Machine

/-- A byte operand (30_encoding.md R87). -/
def fitByte (n : Nat) : Option Byte := if n ≤ 0xFF then some (BitVec.ofNat 8 n) else none

/-- A 16-bit operand (30_encoding.md R87). -/
def fitHalf (n : Nat) : Option Half := if n ≤ 0xFFFF then some (BitVec.ofNat 16 n) else none

/-- A list of byte operands. -/
def fitBytes : List Nat → Option (List Byte)
  | [] => some []
  | n :: ns =>
    match fitByte n, fitBytes ns with
    | some b, some bs => some (b :: bs)
    | _, _ => none

/-- A command without operands. -/
def noOperand (i : Instr) : List Nat → Option (List Instr)
  | [] => some [i]
  | _ => none

/-- A command with one byte operand. -/
def byteOperand (build : Byte → Instr) : List Nat → Option (List Instr)
  | [n] => (fitByte n).map fun v => [build v]
  | _ => none

/-- A command with one 16-bit operand. -/
def halfOperand (build : Half → Instr) : List Nat → Option (List Instr)
  | [n] => (fitHalf n).map fun v => [build v]
  | _ => none

/-- A command with a byte operand and then a 16-bit operand. -/
def byteHalfOperands (build : Byte → Half → Instr) : List Nat → Option (List Instr)
  | [m, n] =>
    match fitByte m, fitHalf n with
    | some v, some h => some [build v h]
    | _, _ => none
  | _ => none

/-- A command with a 16-bit operand and then a byte operand. -/
def halfByteOperands (build : Half → Byte → Instr) : List Nat → Option (List Instr)
  | [m, n] =>
    match fitHalf m, fitByte n with
    | some h, some v => some [build h v]
    | _, _ => none
  | _ => none

/-- The commands `DB_SAMPLE j, v0`; `DB_SAMPLE j+1, v1`; … (30_encoding.md R88). -/
def debounceCommands : Nat → List Nat → Option (List Instr)
  | _, [] => some []
  | j, v :: vs =>
    match fitHalf j, fitByte v, debounceCommands (j + 1) vs with
    | some h, some b, some is => some (.dbSample h b :: is)
    | _, _, _ => none

/-- `DEBOUNCE j, v0, …, v(n-1)` with n >= 1 (30_encoding.md R88). -/
def expandDebounce : List Nat → Option (List Instr)
  | j :: v :: vs => debounceCommands j (v :: vs)
  | _ => none

/-- `TICKS n` with n >= 1 (30_encoding.md R88). -/
def expandTicks : List Nat → Option (List Instr)
  | [n] => if 1 ≤ n then some (List.replicate n .dbTick) else none
  | _ => none

/-- `CK_BLOCK v0, …, v(n-1)` (30_encoding.md R88). -/
def expandCkBlock (vs : List Nat) : Option (List Instr) :=
  (fitBytes vs).map fun bs => .ckInit :: bs.map .ckUpdate ++ [.ckRead]

/-- The commands `RX_BYTE v0, t`; `RX_BYTE v1, t+dt`; …, each time taken mod 2^16 (30_encoding.md
R88). -/
def streamCommands (dt : Nat) : Nat → List Byte → List Instr
  | _, [] => []
  | t, b :: bs => .rxByte b (BitVec.ofNat 16 t) :: streamCommands dt (t + dt) bs

/-- `RX_STREAM t0, dt, v0, …, v(n-1)` (30_encoding.md R88). -/
def expandRxStream : List Nat → Option (List Instr)
  | t :: dt :: vs => (fitBytes vs).map (streamCommands dt t)
  | _ => none

/-- The commands of a mnemonic with its operands (30_encoding.md R87, R88). -/
def assemble (mnemonic : String) : List Nat → Option (List Instr) :=
  match mnemonic with
  | "TM_SET" => halfOperand .tmSet
  | "TM_MARK" => byteOperand .tmMark
  | "TM_ELAPSED" => byteHalfOperands .tmElapsed
  | "DB_SAMPLE" => halfByteOperands .dbSample
  | "DB_TICK" => noOperand .dbTick
  | "DB_RDSTABLE" => halfOperand .dbRdstable
  | "DB_WRSTABLE" => halfByteOperands .dbWrstable
  | "CK_INIT" => noOperand .ckInit
  | "CK_UPDATE" => byteOperand .ckUpdate
  | "CK_READ" => noOperand .ckRead
  | "CK_VERIFY" => halfOperand .ckVerify
  | "RX_ARM" => halfOperand .rxArm
  | "RX_BYTE" => byteHalfOperands .rxByte
  | "RX_POLL" => halfOperand .rxPoll
  | "RX_STATUS" => noOperand .rxStatus
  | "RX_CLRERR" => noOperand .rxClrerr
  | "RX_RDBUF" => halfOperand .rxRdbuf
  | "DEBOUNCE" => expandDebounce
  | "TICKS" => expandTicks
  | "CK_BLOCK" => expandCkBlock
  | "RX_STREAM" => expandRxStream
  | _ => fun _ => none

/-- The value of a digit character in the given base, 10 or 16. -/
def digitValue (base : Nat) (ch : Char) : Option Nat :=
  let n := if '0' ≤ ch ∧ ch ≤ '9' then ch.toNat - '0'.toNat
    else if 'a' ≤ ch ∧ ch ≤ 'f' then ch.toNat - 'a'.toNat + 10
    else if 'A' ≤ ch ∧ ch ≤ 'F' then ch.toNat - 'A'.toNat + 10
    else base
  if n < base then some n else none

/-- The value of a string of digits, most significant first, after the value acc. -/
def digitsValue (base acc : Nat) : List Char → Option Nat
  | [] => some acc
  | ch :: chs =>
    match digitValue base ch with
    | some n => digitsValue base (acc * base + n) chs
    | none => none

/-- A decimal or `0x` hexadecimal number (30_encoding.md R87). -/
def parseNumber : List Char → Option Nat
  | [] => none
  | '0' :: 'x' :: ch :: chs => digitsValue 16 0 (ch :: chs)
  | chs => digitsValue 10 0 chs

/-- The characters without the blanks at both ends. -/
def trimBlanks (chs : List Char) : List Char :=
  ((chs.dropWhile (·.isWhitespace)).reverse.dropWhile (·.isWhitespace)).reverse

/-- A list of operand texts as numbers. -/
def parseNumbers : List (List Char) → Option (List Nat)
  | [] => some []
  | t :: ts =>
    match parseNumber (trimBlanks t), parseNumbers ts with
    | some n, some ns => some (n :: ns)
    | _, _ => none

/-- The operands of a command: separated by commas (30_encoding.md R87). -/
def parseOperands (chs : List Char) : Option (List Nat) :=
  if (trimBlanks chs).isEmpty then some [] else parseNumbers (chs.splitOn ',')

/-- One line of assembler text (30_encoding.md R87): the mnemonic, its operands, an optional comment
starting with `;`. A line with no mnemonic has no commands. -/
def assembleLine (line : String) : Option (List Instr) :=
  let text := trimBlanks (line.toList.takeWhile (· != ';'))
  let mnemonic := text.takeWhile (fun ch => !ch.isWhitespace)
  if mnemonic.isEmpty then some []
  else (parseOperands (text.drop mnemonic.length)).bind (assemble (String.ofList mnemonic))

/-- The command words of one line (30_encoding.md R87). -/
def assembleWords (line : String) : Option (List Word) := (assembleLine line).map (List.map encode)

end Sys2Proof.Machine
end

