-- ==== Sys2Proof/Machine/Frame.lean ====
section
/-! DEFINITION. Machine/Frame.lean: the sender's side of a frame, which the host works with: the frame
record in memory (20_memory.md R64, R66, R67) and the wire format (42_checksum.md R170 to R172). No
command holds or moves such a record; RXBUF has its layout (20_memory.md R65). -/

namespace Sys2Proof.Machine

/-- A CommFrame (20_memory.md R64). Its `len` field is the payload's length. -/
structure CommFrame where
  retryCount : Byte
  toAddr : Byte
  fromAddr : Byte
  payload : List Byte
  deriving DecidableEq, Repr

/-- The `len` byte of a payload, for a payload of at most 255 bytes. -/
def lenByte (payload : List Byte) : Byte := BitVec.ofNat 8 payload.length

/-- The record of a frame in memory: retryCount, len, to, from, payload (20_memory.md R64). -/
def frameRecord (f : CommFrame) : List Byte :=
  [f.retryCount, lenByte f.payload, f.toAddr, f.fromAddr] ++ f.payload

/-- The record's size `len + 4` (20_memory.md R64). -/
def recordSize (len : Byte) : Nat := len.toNat + 4

/-- The wire size `len + 3`, the checksum excluded (20_memory.md R64, 90_conflicts.md C4). -/
def wireSize (len : Byte) : Nat := len.toNat + 3

/-- The bytes a frame takes on the wire, the checksum included (42_checksum.md R170). -/
def transmittedSize (c : Config) (len : Byte) : Nat := wireSize len + ckLen c

/-- `next(base)` (20_memory.md R66): where the record after the one at base starts in the caller's
buffer; the record's `len` is the byte at base + 1. -/
def nextRecord (buffer : Memory) (base : Nat) : Nat := base + recordSize (memRead buffer (base + 1))

/-- A re-send (20_memory.md R67): retryCount goes up by one. At 255 there is no result in any source
and the increment is refused (93_implementation_defined.md U5; assumption log 18). -/
def resend (f : CommFrame) : Option CommFrame :=
  if f.retryCount = 0xFF#8 then none else some { f with retryCount := f.retryCount + 1 }

/-- The wire bytes before the checksum (42_checksum.md R172). -/
def frameBody (toAddr fromAddr : Byte) (payload : List Byte) : List Byte :=
  [toAddr, fromAddr, lenByte payload] ++ payload

/-- The checksum bytes on the wire (42_checksum.md R171): the CRC's high byte first. -/
def checksumBytes (c : Config) (acc : Half) : List Byte :=
  match c.ckPolicy with
  | .xor8 => [acc.extractLsb' 0 8]
  | .crc16 => [acc.extractLsb' 8 8, acc.extractLsb' 0 8]

/-- `encodeFrame(to, from, payload)` (42_checksum.md R172), for a payload of at most 255 bytes; a longer
one has no frame (42_checksum.md R170). -/
def encodeFrame (c : Config) (toAddr fromAddr : Byte) (payload : List Byte) : Option (List Byte) :=
  if payload.length ≤ 255 then
    some (frameBody toAddr fromAddr payload
      ++ checksumBytes c (checksumOf c (frameBody toAddr fromAddr payload)))
  else none

end Sys2Proof.Machine
end

