-- ==== Sys2Proof/Machine/Run.lean ====
section
/-! DEFINITION. Machine/Run.lean: a run of the block over a list of commands (70_reset_and_hazards.md
R296): it ends after the last command or at the first fault, and its result is the end state and the
list of responses. -/

namespace Sys2Proof.Machine

/-- The meanings of a list of commands, one after the other, until one does not answer a next state. -/
def execAll : List Instr → State → Result
  | [], s => .next s
  | i :: is, s =>
    match exec i s with
    | .next t => execAll is t
    | .fault r => .fault r
    | .refused r => .refused r

/-- The run of a list of command words from s (70_reset_and_hazards.md R296): the end state and the
responses, in order; the faulting command's is none. DESIGN CHOICE (assumption log 24): R296 does not
say what the list is for a run on a block halted at its start (BAD_CONFIG at reset); the run stops
after its first command, whose response is the list's one entry, none. -/
def runCommands : List Word → State → State × List (Option Half)
  | [], s => (s, [])
  | w :: ws, s =>
    match acceptCommand w s with
    | .next t =>
      if t.fault.isSome then (t, [t.response])
      else ((runCommands ws t).1, t.response :: (runCommands ws t).2)
    | .fault _ => (s, [])
    | .refused _ => (s, [])

end Sys2Proof.Machine
end

