-- ==== Sys2Proof/WellFormed.lean ====
section
/-! DEFINITION. WellFormed.lean: when a command is well formed on a block with a given configuration:
its index operand lies inside the array it names (the operand range checks of 30_encoding.md R86).
The widths of the operands are the types of Syntax.lean, so every command has an encoding. -/

namespace Sys2Proof

/-- The operand range checks of 30_encoding.md R86 (cause INDEX_RANGE of 60_exceptions.md R250). -/
def Instr.wellFormed (c : Config) : Instr → Bool
  | .tmSet _ => true
  | .tmMark s => Machine.slotInRange c s
  | .tmElapsed s _ => Machine.slotInRange c s
  | .dbSample j _ => Machine.byteIndexInRange c j
  | .dbTick => true
  | .dbRdstable j => Machine.byteIndexInRange c j
  | .dbWrstable j _ => Machine.byteIndexInRange c j
  | .ckInit => true
  | .ckUpdate _ => true
  | .ckRead => true
  | .ckVerify _ => true
  | .rxArm _ => true
  | .rxByte _ _ => true
  | .rxPoll _ => true
  | .rxStatus => true
  | .rxClrerr => true
  | .rxRdbuf k => Machine.offsetInRange c k

end Sys2Proof
end

