-- ==== Sys2Proof/Safety.lean ====
section
/-! DEFINITION. Safety.lean: what a sound state of the block is, in the terms the statements use: the
invariants of 10_state.md (R29, R30, R31, R32, R34, R35, R38, R42, R44) and of 20_memory.md R65. -/

namespace Sys2Proof.Machine

/-- The block runs: it is not in the halted state (60_exceptions.md R252). -/
def State.Running (s : State) : Prop := s.fault = none

/-- The block runs only under a legal configuration (00_scope.md R7, 60_exceptions.md R255). -/
def State.ConfigChecked (s : State) : Prop := configLegal s.cfg = true ∨ s.fault = some .badConfig

/-- Every array has the size the configuration gives it (10_state.md R24, R27, R29). -/
def State.Shaped (s : State) : Prop :=
  s.mark.length = s.cfg.timerSlots ∧ s.raw.length = byteCount s.cfg ∧ s.chg.length = byteCount s.cfg
    ∧ s.cnt.length = s.cfg.inputCount ∧ s.stable.length = byteCount s.cfg

/-- Padding bits hold 0 (10_state.md R29). -/
def State.PaddingClear (s : State) : Prop :=
  ∀ i, s.cfg.inputCount ≤ i → s.readRaw i = false ∧ s.readChg i = false ∧ s.readStable i = false

/-- The debouncer invariants (a), (b) and (c) of 10_state.md R30. -/
def State.DebounceInv (s : State) : Prop :=
  ∀ i, i < s.cfg.inputCount →
    (s.readChg i = true → 1 ≤ (s.readCnt i).toNat ∧ (s.readCnt i).toNat ≤ 15)
    ∧ (s.readChg i = false → s.readCnt i = 0)
    ∧ (s.cfg.aliasMode = false → s.readChg i = false → s.readStable i = s.readRaw i)

/-- Under XOR8 the checksum registers hold 0 in bits [15:8] (10_state.md R31, R37; 42_checksum.md
R162). -/
def State.XorRegistersAreBytes (s : State) : Prop :=
  s.cfg.ckPolicy = .xor8 → s.txAcc.toNat < 256 ∧ s.rxAcc.toNat < 256 ∧ s.rxCk.toNat < 256

/-- What RXPOS, RXLEN, RXBUF[1] and FRAME_VALID are in each receiver state (10_state.md R32, R34, R35,
R38; 43_receiver.md R198, R199). -/
def State.ReceptionInv (s : State) : Prop :=
  match s.rxState with
  | .idle => s.rxPos = 0
  | .awaitStart => s.rxPos = 0
  | .header => (s.rxPos = 1 ∨ s.rxPos = 2) ∧ s.frameValid = false
  | .payload => s.rxPos.toNat < s.rxLen.toNat ∧ s.rxLen.toNat + 4 ≤ s.cfg.recvBufferSize
      ∧ s.readBuf 1 = s.rxLen ∧ s.frameValid = false
  | .checksum => (s.rxPos = 0 ∨ s.rxPos = 1 ∧ ckLen s.cfg = 2)
      ∧ s.rxLen.toNat + 4 ≤ s.cfg.recvBufferSize ∧ s.readBuf 1 = s.rxLen ∧ s.frameValid = false
  | .complete => False

/-- The receive buffer holds its canonical form, nothing outside its offsets, 0 in its retryCount byte
(20_memory.md R65), and, while FRAME_VALID is 1, a record that fits (10_state.md R38). -/
def State.BufferInv (s : State) : Prop :=
  memWf s.rxBuf = true ∧ (∀ off, s.cfg.recvBufferSize ≤ off → s.readBuf off = 0) ∧ s.readBuf 0 = 0
    ∧ (s.frameValid = true → (s.readBuf 1).toNat + 4 ≤ s.cfg.recvBufferSize)

/-- The last error reported and not cleared has its sticky flag set (10_state.md R38). -/
def State.ErrorFlagsInv (s : State) : Prop := s.errFlags &&& errFlag s.lastErr = errFlag s.lastErr

/-- The fields of an event record are in the ranges of 10_state.md R42. -/
def eventLegal (c : Config) : Event → Prop
  | .dbChange input _ => input < c.inputCount
  | .dbByte byteIndex _ mask => byteIndex < byteCount c ∧ mask ≠ 0
  | .rxError code => code ≠ .errNone
  | .rxFrame _ _ len payload _ => payload.length = len.toNat

/-- Every event of EV is a record of 10_state.md R42. -/
def State.EventsLegal (s : State) : Prop := ∀ e ∈ s.ev, eventLegal s.cfg e

/-- FAULT and FAULT_WORD tell why the block halted: the cause of 60_exceptions.md R250 for the command
word of 10_state.md R44. -/
def State.FaultRecord (s : State) : Prop :=
  match s.fault with
  | none => s.faultWord = 0
  | some .illegalCommand => decode s.faultWord = .error .illegalCommand
  | some .reservedField => decode s.faultWord = .error .reservedField
  | some .indexRange => ∃ i, decode s.faultWord = .ok i ∧ i.wellFormed s.cfg = false
  | some .armNotIdle => (∃ t, decode s.faultWord = .ok (.rxArm t)) ∧ s.rxState ≠ .idle
  | some .notAliasMode => (∃ j v, decode s.faultWord = .ok (.dbWrstable j v)) ∧ s.cfg.aliasMode = false
  | some .badConfig => s.faultWord = 0 ∧ configLegal s.cfg = false

end Sys2Proof.Machine
end

