-- ==== Sys2Proof/Certificates/Slice0/Obligations.lean ====
section
/-! DEFINITION. Certificates/Slice0/Obligations.lean: the statements about TCO-DBRX for the provers, and
the words they are written in. -/

open Sys2Proof Sys2Proof.Machine

/-! ## The words of the statements -/

namespace Sys2Proof.Claims

/-- What a running block does with a word whose bits [31:24] are `op`, for a row of 30_encoding.md R82
that shows the field `a` (bits [23:16]) or `b` (bits [15:0]) as `0`: a nonzero reserved field raises
RESERVED_FIELD (R84), else the command made of the two fields is performed. -/
def Issues (op : Nat) (aReserved bReserved : Bool) (build : Byte → Half → Instr) : Prop :=
  ∀ (w : Word) (s : State), s.fault = none → w.toNat / 2 ^ 24 = op →
    acceptCommand w s =
      if (aReserved = true ∧ w.toNat / 2 ^ 16 % 256 ≠ 0) ∨ (bReserved = true ∧ w.toNat % 2 ^ 16 ≠ 0) then
        .next { s with fault := some .reservedField, faultWord := w, response := none }
      else exec (build (BitVec.ofNat 8 (w.toNat / 2 ^ 16 % 256)) (BitVec.ofNat 16 (w.toNat % 2 ^ 16))) s

/-- The command i faults in s with the code, and with no other effect (60_exceptions.md R251). -/
def FaultsWith (code : FaultCode) (i : Instr) (s : State) : Prop :=
  exec i s = .next { s with fault := some code, faultWord := encode i, response := none }

/-- The opcodes of 30_encoding.md R82. -/
def opcodes : List Nat :=
  [0x01, 0x02, 0x03, 0x10, 0x11, 0x12, 0x13, 0x20, 0x21, 0x22, 0x23, 0x30, 0x31, 0x32, 0x33, 0x34, 0x35]

/-- The opcodes whose row in 30_encoding.md R82 shows the field `a` as `0`. -/
def aReservedOpcodes : List Nat := [0x01, 0x11, 0x12, 0x20, 0x22, 0x23, 0x30, 0x32, 0x33, 0x34, 0x35]

/-- The opcodes whose row in 30_encoding.md R82 shows the field `b` as `0`. -/
def bReservedOpcodes : List Nat := [0x02, 0x11, 0x20, 0x21, 0x22, 0x33, 0x34]

/-- The wrap-around gap between two times, as a number (40_timer.md R100). -/
def gap (t m : Half) : Nat := (t.toNat + 65536 - m.toNat) % 65536

/-- Input i's countdown ends at the next tick (41_debouncer.md R126, last row). -/
def expires (s : State) (i : Nat) : Bool :=
  decide (i < s.cfg.inputCount) && s.readChg i && decide (s.readCnt i = 1)

/-- The byte whose bit k is f k. -/
def byteOfBits (f : Nat → Bool) : Byte :=
  BitVec.ofNat 8 ((List.range 8).map fun k => if f k then 2 ^ k else 0).sum

/-- The events of byte j in one tick (41_debouncer.md R122): one DbChange for each input that expires,
in ascending order, then, if there was one, the DbByte with the whole stable byte after the tick and
the mask of the inputs that expired. -/
def tickByteEvents (s : State) (j : Nat) : List Event :=
  let hits := (List.range 8).filter fun k => expires s (8 * j + k)
  if hits = [] then []
  else (hits.map fun k => .dbChange (8 * j + k) (s.readRaw (8 * j + k)))
    ++ [.dbByte j
        (byteOfBits fun k => decide (8 * j + k < s.cfg.inputCount)
          && (if expires s (8 * j + k) then s.readRaw (8 * j + k) else s.readStable (8 * j + k)))
        (byteOfBits fun k => expires s (8 * j + k))]

/-- The events of one tick, byte by byte in ascending order (41_debouncer.md R122). -/
def tickEvents (s : State) : List Event := (List.range (byteCount s.cfg)).flatMap (tickByteEvents s)

/-- The edge filter's state of input i: (RAW[i], CHG[i], CNT[i], STABLE[i]) (41_debouncer.md R126). -/
def filterState (s : State) (i : Nat) : Bool × Bool × Nibble × Bool :=
  (s.readRaw i, s.readChg i, s.readCnt i, s.readStable i)

/-- The levels reported for input i, oldest first. -/
def changesOf (i : Nat) (ev : List Event) : List Bool :=
  ev.filterMap fun
    | .dbChange n level => if n = i then some level else none
    | _ => none

/-- The countdown C(x) of 41_debouncer.md R126. -/
def count (c : Config) (x : Bool) : Nat := if x then c.onCount else c.offCount

/-- The command leaves the raw value x of input i as it is: it is no DB_SAMPLE of that input's byte with
another bit there. -/
def keepsRaw (i : Nat) (x : Bool) : Instr → Prop
  | .dbSample j v => 8 * j.toNat ≤ i ∧ i < 8 * j.toNat + 8 → v.getLsbD (i - 8 * j.toNat) = x
  | _ => True

/-- The number of DB_TICK commands in a list. -/
def ticksIn (is : List Instr) : Nat := is.count .dbTick

/-- A received byte at time t starts a frame (43_receiver.md R192): in IDLE under StartFrame, in
AWAIT_START within the start window, and, late, under StartFrame. -/
def startsFrame (t : Half) (s : State) : Bool :=
  match s.rxState with
  | .idle => decide (s.cfg.idleBytePolicy = .startFrame)
  | .awaitStart => decide (gap t s.rxMark ≤ s.cfg.tStart) || decide (s.cfg.idleBytePolicy = .startFrame)
  | .header => decide (s.cfg.tGap < gap t s.rxMark) && decide (s.cfg.idleBytePolicy = .startFrame)
  | .payload => decide (s.cfg.tGap < gap t s.rxMark) && decide (s.cfg.idleBytePolicy = .startFrame)
  | .checksum => decide (s.cfg.tGap < gap t s.rxMark) && decide (s.cfg.idleBytePolicy = .startFrame)
  | .complete => false

/-- The offsets of RXBUF that a received byte at time t stores to (43_receiver.md R195, R196, R199). -/
def storedOffsets (t : Half) (s : State) : List Nat :=
  if startsFrame t s then [0, 2]
  else if s.cfg.tGap < gap t s.rxMark then []
  else match s.rxState with
    | .header => if s.rxPos = 1 then [3] else [1]
    | .payload => [4 + s.rxPos.toNat]
    | _ => []

/-- A frame is being received. -/
abbrev inFrame (s : State) : Prop := s.rxState = .header ∨ s.rxState = .payload ∨ s.rxState = .checksum

/-- The receive buffer of a legal configuration in its canonical form: what a read after a write needs. -/
def bufferReady (s : State) : Prop := 4 ≤ s.cfg.recvBufferSize ∧ memWf s.rxBuf = true

/-- The command i takes the receiver of s to the state st, appends the events, and faults not. -/
def goesTo (i : Instr) (s : State) (st : RxState) (events : List Event) : Prop :=
  ∃ u, exec i s = .next u ∧ u.fault = s.fault ∧ u.rxState = st ∧ u.ev = s.ev ++ events

/-- The RxFrame event of the record in RXBUF (43_receiver.md R201, R202). -/
def stagedFrame (s : State) : Event :=
  .rxFrame (s.readBuf 2) (s.readBuf 3) (s.readBuf 1)
    ((List.range (s.readBuf 1).toNat).map fun k => s.readBuf (4 + k))
    (decide (s.readBuf 2 = 0xFF#8 ∨ (s.readBuf 2).toNat = s.cfg.busId))

/-- The checksum received once the byte v is the last of it (43_receiver.md R201). -/
def receivedChecksum (v : Byte) (s : State) : Half :=
  match s.cfg.ckPolicy with
  | .xor8 => v.setWidth 16
  | .crc16 => s.rxCk ||| v.setWidth 16

/-- The byte v is the last checksum byte (43_receiver.md R201). -/
abbrev lastChecksumByte (s : State) : Prop := s.cfg.ckPolicy = .xor8 ∨ s.rxPos ≠ 0

/-- The receiver takes the first byte of a frame at time t without reporting anything: in IDLE under
StartFrame, or in AWAIT_START within the window (42_checksum.md R173). -/
def readyForFrame (t : Half) (s : State) : Prop :=
  (s.rxState = .idle ∧ s.cfg.idleBytePolicy = .startFrame)
    ∨ (s.rxState = .awaitStart ∧ gap t s.rxMark ≤ s.cfg.tStart)

/-- Each time is within T_GAP of the one before it (42_checksum.md R173). -/
def gapsWithin (w : Nat) (times : List Half) : Prop :=
  ∀ k, k + 1 < times.length → gap (times.getD (k + 1) 0) (times.getD k 0) ≤ w

/-- What 10_state.md R45 lets the host read, and the configuration. -/
def sameVisible (s u : State) : Prop :=
  s.cfg = u.cfg ∧ s.now = u.now ∧ s.mark = u.mark ∧ s.stable = u.stable ∧ s.txAcc = u.txAcc
    ∧ statusWord s = statusWord u ∧ s.rxBuf = u.rxBuf ∧ s.ev = u.ev ∧ s.fault = u.fault

/-- The debouncer's invariants together with what they rest on. -/
def debouncerSound (s : State) : Prop := s.ConfigChecked ∧ s.Shaped ∧ s.PaddingClear ∧ s.DebounceInv

/-- The receiver's invariants. -/
def receiverSound (s : State) : Prop := s.ReceptionInv ∧ s.BufferInv ∧ s.ErrorFlagsInv

/-- The fault the command i raises in the running state s: the causes of 60_exceptions.md R250 in the
order of R253. -/
def faultOf (i : Instr) (s : State) : Option FaultCode :=
  match i with
  | .tmMark slot => if s.cfg.timerSlots ≤ slot.toNat then some .indexRange else none
  | .tmElapsed slot _ => if s.cfg.timerSlots ≤ slot.toNat then some .indexRange else none
  | .dbSample j _ => if (s.cfg.inputCount + 7) / 8 ≤ j.toNat then some .indexRange else none
  | .dbRdstable j => if (s.cfg.inputCount + 7) / 8 ≤ j.toNat then some .indexRange else none
  | .dbWrstable j _ =>
    if (s.cfg.inputCount + 7) / 8 ≤ j.toNat then some .indexRange
    else if s.cfg.aliasMode then none else some .notAliasMode
  | .rxRdbuf k => if s.cfg.recvBufferSize ≤ k.toNat then some .indexRange else none
  | .rxArm _ => if s.rxState = .idle then none else some .armNotIdle
  | _ => none

/-- One repetition of 42_checksum.md R163 on numbers. -/
def crcBitStep (acc : Nat) : Nat :=
  if 32768 ≤ acc then (2 * acc % 65536) ^^^ 0x1021 else 2 * acc % 65536

/-- The ASCII bytes "123456789". -/
def asciiDigits : List Byte := [0x31, 0x32, 0x33, 0x34, 0x35, 0x36, 0x37, 0x38, 0x39]

/-- A configuration with the CRC16 policy and the given initial value. -/
def crcConfig (start : Nat) : Config := { Config.reference with ckPolicy := .crc16, crcInit := start }

end Sys2Proof.Claims

open Sys2Proof.Claims

/-! ## Decoding and encoding -/

/-- Every command decodes back from its own word (30_encoding.md R80 to R82, R86, R87). -/
def Obligations.DecodeEncodeAgree : Prop := ∀ i : Instr, decode (encode i) = .ok i

/-- A word that decodes to a command is that command's word: no bit of it is ignored (30_encoding.md
R80 to R82, R84). -/
def Obligations.EncodeDecodeAgree : Prop := ∀ (w : Word) (i : Instr), decode w = .ok i → encode i = w

/-- The examples of 30_encoding.md R89: the words of the named commands, the three illegal words, and
DB_TICK with a nonzero reserved field, on any running block. -/
def Obligations.EncodingExamples : Prop :=
  assembleWords "DB_SAMPLE 0, 0x01" = some [0x10010000] ∧ decode 0x10010000 = .ok (.dbSample 0 0x01)
    ∧ assembleWords "DB_SAMPLE 3, 0xA5" = some [0x10A50003] ∧ decode 0x10A50003 = .ok (.dbSample 3 0xA5)
    ∧ assembleWords "DB_TICK" = some [0x11000000] ∧ decode 0x11000000 = .ok .dbTick
    ∧ assembleWords "TM_ELAPSED 2, 1000" = some [0x030203E8] ∧ decode 0x030203E8 = .ok (.tmElapsed 2 1000)
    ∧ assembleWords "RX_BYTE 0x05, 100" = some [0x31050064] ∧ decode 0x31050064 = .ok (.rxByte 5 100)
    ∧ assembleWords "RX_ARM 0xFFF0" = some [0x3000FFF0] ∧ decode 0x3000FFF0 = .ok (.rxArm 0xFFF0)
    ∧ assembleWords "CK_VERIFY 0x31C3" = some [0x230031C3] ∧ decode 0x230031C3 = .ok (.ckVerify 0x31C3)
    ∧ assembleWords "RX_RDBUF 4" = some [0x35000004] ∧ decode 0x35000004 = .ok (.rxRdbuf 4)
    ∧ (∀ w ∈ [0x00000000#32, 0x04000000#32, 0x40000000#32], decode w = .error .illegalCommand)
    ∧ decode 0x11000001 = .error .reservedField
    ∧ ∀ s : State, s.fault = none → acceptCommand 0x11000001 s
        = .next { s with fault := some .reservedField, faultWord := 0x11000001, response := none }

/-- A word whose opcode is in no row of the opcode map faults ILLEGAL_COMMAND when the running block
consumes it; the all-zero word is one (30_encoding.md R85). -/
def Obligations.IllegalOpcodeFaults : Prop :=
  (∀ (w : Word) (s : State), s.fault = none → w.toNat / 2 ^ 24 ∉ opcodes →
    acceptCommand w s = .next { s with
      fault := some .illegalCommand, faultWord := w, response := none })
    ∧ decode 0 = .error .illegalCommand

/-- A word of the opcode map with a nonzero reserved field is not executed: it faults RESERVED_FIELD
(30_encoding.md R84). -/
def Obligations.ReservedFieldFaults : Prop :=
  ∀ (w : Word) (s : State), s.fault = none →
    (w.toNat / 2 ^ 24 ∈ aReservedOpcodes ∧ w.toNat / 2 ^ 16 % 256 ≠ 0)
      ∨ (w.toNat / 2 ^ 24 ∈ bReservedOpcodes ∧ w.toNat % 2 ^ 16 ≠ 0) →
    acceptCommand w s = .next { s with fault := some .reservedField, faultWord := w, response := none }

/-! ## Steps, the halted state, reset -/

/-- A step of a running block whose next input is a command word that decodes to i is exec of i at the
state with that word consumed (00_scope.md R3, 10_state.md R20); a step on any command word, halted or
not, is what the word does when it reaches the block. That the words stand in the state is the model's
choice (assumption log 1). -/
def Obligations.StepRunsDecodedCommand : Prop :=
  ∀ (w : Word) (s : State) (rest : List HostInput), s.inputs = .command w :: rest →
    step s = acceptCommand w { s with inputs := rest }
      ∧ ∀ i : Instr, s.fault = none → decode w = .ok i → step s = exec i { s with inputs := rest }

/-- While FAULT is not none a command word changes no state, EV, FAULT and FAULT_WORD included, and has
no response (60_exceptions.md R252). -/
def Obligations.HaltedBlockPerformsNothing : Prop :=
  ∀ (w : Word) (s : State), s.fault ≠ none → acceptCommand w s = .next { s with response := none }

/-- Every step answers a next state and consumes exactly one input, the oldest; with none issued it
changes nothing (10_state.md R20, 60_exceptions.md R263); a reset keeps nothing of the state before it
(70_reset_and_hazards.md R280). That inputs, resets among them, stand in the state is the model's choice
(assumption log 1 and 2). -/
def Obligations.StepConsumesOneInput : Prop :=
  ∀ s : State, (∃ t, step s = .next t ∧ t.inputs = s.inputs.tail) ∧ (s.inputs = [] → step s = .next s)
    ∧ ∀ (c : Config) (rest : List HostInput), s.inputs = .reset c :: rest →
      step s = .next { State.resetWith c with inputs := rest }

/-- Reset leaves every element at the value of 70_reset_and_hazards.md R281, and the status word is then
0x0000 and every DB_RDSTABLE outside alias mode responds 0. It speaks of every configuration, refused
ones included: for those, TXACC with a CRC_INIT above 65535 and STABLE with a short STABLE_INIT are the
model's choice (assumption log 16), and the two responses are what the meaning `exec` answers, for a
halted block performs no command (60_exceptions.md R252; assumption log 9). -/
def Obligations.ResetEstablishesResetValues : Prop :=
  ∀ c : Config, let s := State.resetWith c
    s.cfg = c ∧ s.now = 0 ∧ (∀ k, k < c.timerSlots → s.readMark k = 0)
      ∧ (∀ i, i < c.inputCount → s.readRaw i = false ∧ s.readChg i = false ∧ s.readCnt i = 0
          ∧ s.readStable i = (c.aliasMode && bitRead c.stableInit i))
      ∧ s.txAcc = (match c.ckPolicy with | .xor8 => 0 | .crc16 => BitVec.ofNat 16 c.crcInit)
      ∧ s.rxState = .idle ∧ s.rxMark = 0 ∧ s.rxPos = 0 ∧ s.rxLen = 0
      ∧ (∀ k, k < c.recvBufferSize → s.readBuf k = 0) ∧ s.rxAcc = 0 ∧ s.rxCk = 0
      ∧ s.lastErr = .errNone ∧ s.errFlags = 0 ∧ s.frameValid = false ∧ s.ev = []
      ∧ (s.fault = none ∨ s.fault = some .badConfig) ∧ s.faultWord = 0
      ∧ exec .rxStatus s = .next { s with response := some 0 }
      ∧ ∀ j : Half, c.aliasMode = false → j.toNat < (c.inputCount + 7) / 8 →
          exec (.dbRdstable j) s = .next { s with response := some 0 }

/-- Reset ends with FAULT = BAD_CONFIG and FAULT_WORD = 0 exactly when a range of 00_scope.md R6 is
violated (60_exceptions.md R255). That STABLE_INIT must be all zero outside alias mode, and that its
padding bits are not looked at, is the model's reading (assumption log 10 and 11). -/
def Obligations.BadConfigExactly : Prop :=
  ∀ c : Config, (State.resetWith c).faultWord = 0 ∧
    ((State.resetWith c).fault = none ↔
      (1 ≤ c.inputCount ∧ c.inputCount ≤ 524288) ∧ (1 ≤ c.onCount ∧ c.onCount ≤ 15)
        ∧ (1 ≤ c.offCount ∧ c.offCount ≤ 15) ∧ c.stableInit.length = (c.inputCount + 7) / 8
        ∧ (c.aliasMode = false → ∀ i, i < c.inputCount → bitRead c.stableInit i = false)
        ∧ (1 ≤ c.timerSlots ∧ c.timerSlots ≤ 256) ∧ c.crcInit ≤ 65535 ∧ c.tStart ≤ 65535
        ∧ c.tGap ≤ 65535 ∧ (4 ≤ c.recvBufferSize ∧ c.recvBufferSize ≤ 259) ∧ c.busId ≤ 254)
    ∧ ((State.resetWith c).fault = none ∨ (State.resetWith c).fault = some .badConfig)

/-- Every invariant of Safety.lean holds right after a reset, whatever the configuration (10_state.md
R30, 70_reset_and_hazards.md R281). The last clause is the model's choice, not a rule of the spec
(assumption log 4): the machine's own reset state is the one of `Config.reference`, and it runs. -/
def Obligations.ResetStateIsSound : Prop :=
  (∀ c : Config, debouncerSound (State.resetWith c) ∧ receiverSound (State.resetWith c)
      ∧ (State.resetWith c).XorRegistersAreBytes ∧ (State.resetWith c).EventsLegal
      ∧ (State.resetWith c).FaultRecord)
    ∧ State.reset = State.resetWith Config.reference ∧ State.reset.Running

/-! ## Invariants every step keeps -/

/-- Every step keeps the debouncer's invariants (10_state.md R30), with the array sizes, the cleared
padding (R29) and the checked configuration they rest on. -/
def Obligations.StepKeepsDebouncerSound : Prop :=
  ∀ s t : State, debouncerSound s → step s = .next t → debouncerSound t

/-- Every step keeps the receiver's invariants: what RXPOS, RXLEN, RXBUF and FRAME_VALID are in each
receiver state, COMPLETE never held, the buffer canonical and in range, the last error's flag set
(10_state.md R32, R34, R35, R38; 20_memory.md R65; 43_receiver.md R199). -/
def Obligations.StepKeepsReceiverSound : Prop :=
  ∀ s t : State, receiverSound s → step s = .next t → receiverSound t

/-- Every step keeps FAULT and FAULT_WORD telling why the block halted: the word's decoding and the
state show the cause 60_exceptions.md R250 gives the code. -/
def Obligations.StepKeepsFaultRecord : Prop :=
  ∀ s t : State, s.FaultRecord → step s = .next t → t.FaultRecord

/-- Every step keeps EV a list of records with the field ranges of 10_state.md R42. -/
def Obligations.StepKeepsEventsLegal : Prop :=
  ∀ s t : State, s.EventsLegal → step s = .next t → t.EventsLegal

/-- Under XOR8 every step keeps bits [15:8] of TXACC, RXACC and RXCK zero (10_state.md R31, R37;
42_checksum.md R162). -/
def Obligations.StepKeepsXorRegistersBytes : Prop :=
  ∀ s t : State, s.XorRegistersAreBytes → step s = .next t → t.XorRegistersAreBytes

/-! ## Rules of the whole block -/

/-- Only a reset empties EV: every other step appends to it (10_state.md R41; 70_reset_and_hazards.md
R280). That a reset reaches the block as an input in the state is the model's choice (assumption log 1
and 2). -/
def Obligations.EventStreamAppendOnly : Prop :=
  ∀ s t : State, step s = .next t → (∃ c rest, s.inputs = .reset c :: rest) ∨ ∃ new, t.ev = s.ev ++ new

/-- Each register is written only by the commands 10_state.md names as its writers (R23 to R38, R45), and
EV by the commands that emit (R41, R42). That no command changes the configuration is R22, which the
model carries in its field `cfg` (assumption log 3); that a meaning leaves `inputs` alone is about the
model's own field (assumption log 1), which only a step consumes (R20). -/
def Obligations.RegistersWrittenOnlyByTheirCommands : Prop :=
  ∀ (i : Instr) (s t : State), exec i s = .next t →
    t.cfg = s.cfg ∧ t.inputs = s.inputs
    ∧ (t.now ≠ s.now → ∃ x, i = .tmSet x)
    ∧ (t.mark ≠ s.mark → (∃ k, i = .tmMark k) ∨ ∃ k d, i = .tmElapsed k d ∧ t.response = some 1)
    ∧ (t.raw ≠ s.raw → ∃ j v, i = .dbSample j v)
    ∧ (t.chg ≠ s.chg ∨ t.cnt ≠ s.cnt → (∃ j v, i = .dbSample j v) ∨ i = .dbTick)
    ∧ (t.stable ≠ s.stable → i = .dbTick ∨ ∃ j v, i = .dbWrstable j v ∧ s.cfg.aliasMode = true)
    ∧ (t.txAcc ≠ s.txAcc → i = .ckInit ∨ ∃ v, i = .ckUpdate v)
    ∧ (t.rxState ≠ s.rxState ∨ t.rxPos ≠ s.rxPos →
        (∃ x, i = .rxArm x) ∨ (∃ v x, i = .rxByte v x) ∨ ∃ x, i = .rxPoll x)
    ∧ (t.rxMark ≠ s.rxMark → (∃ x, i = .rxArm x) ∨ ∃ v x, i = .rxByte v x)
    ∧ (t.rxLen ≠ s.rxLen ∨ t.rxBuf ≠ s.rxBuf ∨ t.rxAcc ≠ s.rxAcc ∨ t.rxCk ≠ s.rxCk
          ∨ t.frameValid ≠ s.frameValid → ∃ v x, i = .rxByte v x)
    ∧ (t.lastErr ≠ s.lastErr ∨ t.errFlags ≠ s.errFlags →
        (∃ v x, i = .rxByte v x) ∨ (∃ x, i = .rxPoll x) ∨ i = .rxClrerr)
    ∧ (t.ev ≠ s.ev → i = .dbTick ∨ (∃ v x, i = .rxByte v x) ∨ ∃ x, i = .rxPoll x)

/-- Fault entry and precision: a command word that faults a running block changes FAULT and FAULT_WORD,
which takes the word, and nothing else, and gives no response (60_exceptions.md R251, R254). -/
def Obligations.FaultChangesNothingElse : Prop :=
  ∀ (w : Word) (s t : State) (code : FaultCode), s.fault = none → acceptCommand w s = .next t →
    t.fault = some code → t = { s with fault := some code, faultWord := w, response := none }

/-- A command raises the fault its rule names, with the priority of 60_exceptions.md R253, and otherwise
completes with a response and without a fault (60_exceptions.md R250, 10_state.md R43). -/
def Obligations.FaultCausesExact : Prop :=
  ∀ (i : Instr) (s : State), s.fault = none → ∃ t, exec i s = .next t ∧ t.fault = faultOf i s
    ∧ (faultOf i s = none ↔ t.response ≠ none)

/-- What the host cannot read does not show in the response or the fault of any one command
(10_state.md R45). -/
def Obligations.HiddenStateDoesNotShow : Prop :=
  ∀ (i : Instr) (s u s' u' : State), sameVisible s u → exec i s = .next s' → exec i u = .next u' →
    s'.response = u'.response ∧ s'.fault = u'.fault

/-! ## The elapsed-time unit -/

/-- TM_SET (40_timer.md R101). -/
def Obligations.TmSetResult : Prop :=
  Issues 0x01 true false (fun _ b => .tmSet b)
    ∧ ∀ (t : Half) (s : State), exec (.tmSet t) s = .next { s with now := t, response := some 0 }

/-- TM_MARK (40_timer.md R102): the slot takes NOW, every other slot and everything else stays; an
out-of-range slot faults INDEX_RANGE. -/
def Obligations.TmMarkResult : Prop :=
  Issues 0x02 false true (fun a _ => .tmMark a)
    ∧ ∀ (slot : Byte) (s : State), s.Shaped →
      (slot.toNat < s.cfg.timerSlots →
        ∃ t, exec (.tmMark slot) s = .next t ∧ t = { s with mark := t.mark, response := some 0 }
          ∧ t.readMark slot.toNat = s.now ∧ ∀ k, k ≠ slot.toNat → t.readMark k = s.readMark k)
      ∧ (s.cfg.timerSlots ≤ slot.toNat → FaultsWith .indexRange (.tmMark slot) s)

/-- TM_ELAPSED (40_timer.md R103): it responds 1 and re-arms the mark at NOW when the gap is at least d,
else it responds 0 and changes nothing; an out-of-range slot faults INDEX_RANGE. -/
def Obligations.TmElapsedResult : Prop :=
  Issues 0x03 false false (fun a b => .tmElapsed a b)
    ∧ ∀ (slot : Byte) (d : Half) (s : State), s.Shaped →
      (slot.toNat < s.cfg.timerSlots →
        (d.toNat ≤ gap s.now (s.readMark slot.toNat) →
          ∃ t, exec (.tmElapsed slot d) s = .next t ∧ t = { s with mark := t.mark, response := some 1 }
            ∧ t.readMark slot.toNat = s.now ∧ ∀ k, k ≠ slot.toNat → t.readMark k = s.readMark k)
        ∧ (gap s.now (s.readMark slot.toNat) < d.toNat →
          exec (.tmElapsed slot d) s = .next { s with response := some 0 }))
      ∧ (s.cfg.timerSlots ≤ slot.toNat → FaultsWith .indexRange (.tmElapsed slot d) s)

/-- The wrap-around gap (40_timer.md R100): the difference of the two times, with 65536 added when the
counter has wrapped; it is the true elapsed time exactly when that is below 65536. -/
def Obligations.WrapAroundGap : Prop :=
  (∀ t m : Half, (gap16 t m).toNat = (if m.toNat ≤ t.toNat then t.toNat - m.toNat
      else t.toNat + 65536 - m.toNat) ∧ (gap16 t m).toNat ≤ 65535)
    ∧ ∀ now mark : Nat, mark ≤ now →
      ((gap16 (BitVec.ofNat 16 now) (BitVec.ofNat 16 mark)).toNat = now - mark ↔ now - mark < 65536)

/-- The periodic tick (40_timer.md R104): after a response of 1, the same test responds 1 again exactly
when NOW is at least d past the NOW of that response, and so never earlier. -/
def Obligations.ElapsedReArms : Prop :=
  ∀ (slot : Byte) (d t : Half) (s u v : State), s.Shaped →
    exec (.tmElapsed slot d) s = .next u → u.response = some 1 →
    exec (.tmElapsed slot d) { u with now := t } = .next v →
    (v.response = some 1 ↔ d.toNat ≤ gap t s.now)

/-! ## The debouncer -/

/-- DB_SAMPLE (41_debouncer.md R121): exactly the inputs of byte j whose raw value differs from the
sample's bit take it, are marked changing, and load the count of the new value; padding and every
other input stay; an out-of-range byte index faults INDEX_RANGE. -/
def Obligations.DbSampleResult : Prop :=
  Issues 0x10 false false (fun a b => .dbSample b a)
    ∧ ∀ (j : Half) (v : Byte) (s : State), s.Shaped →
      (j.toNat < (s.cfg.inputCount + 7) / 8 →
        ∃ t, exec (.dbSample j v) s = .next t
          ∧ t = { s with raw := t.raw, chg := t.chg, cnt := t.cnt, response := some 0 }
          ∧ ∀ i, if (8 * j.toNat ≤ i ∧ i < 8 * j.toNat + 8) ∧ i < s.cfg.inputCount
                  ∧ v.getLsbD (i - 8 * j.toNat) ≠ s.readRaw i
              then t.readRaw i = v.getLsbD (i - 8 * j.toNat) ∧ t.readChg i = true
                ∧ t.readCnt i = BitVec.ofNat 4 (count s.cfg (v.getLsbD (i - 8 * j.toNat)))
              else t.readRaw i = s.readRaw i ∧ t.readChg i = s.readChg i ∧ t.readCnt i = s.readCnt i)
      ∧ ((s.cfg.inputCount + 7) / 8 ≤ j.toNat → FaultsWith .indexRange (.dbSample j v) s)

/-- DB_TICK (41_debouncer.md R122): every changing input counts down; the ones whose count ends are no
longer changing and their stable bit takes the raw value; the events of the tick are appended in the
rule's order; everything else stays. -/
def Obligations.DbTickResult : Prop :=
  Issues 0x11 true true (fun _ _ => .dbTick)
    ∧ ∀ s : State, s.Shaped → ∃ t, exec .dbTick s = .next t
      ∧ t = { s with chg := t.chg, cnt := t.cnt, stable := t.stable, ev := t.ev, response := some 0 }
      ∧ t.ev = s.ev ++ tickEvents s
      ∧ ∀ i, if i < s.cfg.inputCount ∧ s.readChg i = true
          then t.readCnt i = s.readCnt i - 1
            ∧ t.readChg i = decide (s.readCnt i ≠ 1)
            ∧ t.readStable i = (if s.readCnt i = 1 then s.readRaw i else s.readStable i)
          else t.readCnt i = s.readCnt i ∧ t.readChg i = s.readChg i ∧ t.readStable i = s.readStable i

/-- The per-input edge-filter state machine, row by row, with the reports (41_debouncer.md R126). -/
def Obligations.EdgeFilterMachine : Prop :=
  ∀ (s : State) (i : Nat), s.Shaped → i < s.cfg.inputCount →
    (∀ (j : Half) (v : Byte), 8 * j.toNat ≤ i → i < 8 * j.toNat + 8 →
      ∃ t, exec (.dbSample j v) s = .next t ∧ changesOf i t.ev = changesOf i s.ev
        ∧ let x := v.getLsbD (i - 8 * j.toNat)
          filterState t i = if x = s.readRaw i then filterState s i
            else (x, true, BitVec.ofNat 4 (count s.cfg x), s.readStable i))
    ∧ ∃ t, exec .dbTick s = .next t
      ∧ (s.readChg i = false → s.readCnt i = 0 →
          filterState t i = filterState s i ∧ changesOf i t.ev = changesOf i s.ev)
      ∧ (s.readChg i = true → 2 ≤ (s.readCnt i).toNat →
          filterState t i = (s.readRaw i, true, s.readCnt i - 1, s.readStable i)
            ∧ changesOf i t.ev = changesOf i s.ev)
      ∧ (s.readChg i = true → s.readCnt i = 1 →
          filterState t i = (s.readRaw i, false, 0, s.readRaw i)
            ∧ changesOf i t.ev = changesOf i s.ev ++ [s.readRaw i])

/-- DB_RDSTABLE (41_debouncer.md R123): bit k of the response is the stable bit of input 8j+k, 0 for
padding and 0 in bits [15:8]; nothing changes; an out-of-range byte index faults INDEX_RANGE. -/
def Obligations.DbRdstableResult : Prop :=
  Issues 0x12 true false (fun _ b => .dbRdstable b)
    ∧ ∀ (j : Half) (s : State),
      (j.toNat < (s.cfg.inputCount + 7) / 8 →
        ∃ r, exec (.dbRdstable j) s = .next { s with response := some r }
          ∧ ∀ k, r.getLsbD k = (decide (k < 8) && decide (8 * j.toNat + k < s.cfg.inputCount)
              && s.readStable (8 * j.toNat + k)))
      ∧ ((s.cfg.inputCount + 7) / 8 ≤ j.toNat → FaultsWith .indexRange (.dbRdstable j) s)

/-- DB_WRSTABLE (41_debouncer.md R124): in alias mode the inputs of byte j take the bits of v in STABLE
and nothing else changes; outside alias mode it faults NOT_ALIAS_MODE; an out-of-range byte index
faults INDEX_RANGE first. -/
def Obligations.DbWrstableResult : Prop :=
  Issues 0x13 false false (fun a b => .dbWrstable b a)
    ∧ ∀ (j : Half) (v : Byte) (s : State), s.Shaped →
      (j.toNat < (s.cfg.inputCount + 7) / 8 →
        (s.cfg.aliasMode = true →
          ∃ t, exec (.dbWrstable j v) s = .next t ∧ t = { s with stable := t.stable, response := some 0 }
            ∧ ∀ i, t.readStable i =
                if (8 * j.toNat ≤ i ∧ i < 8 * j.toNat + 8) ∧ i < s.cfg.inputCount
                then v.getLsbD (i - 8 * j.toNat) else s.readStable i)
        ∧ (s.cfg.aliasMode = false → FaultsWith .notAliasMode (.dbWrstable j v) s))
      ∧ ((s.cfg.inputCount + 7) / 8 ≤ j.toNat → FaultsWith .indexRange (.dbWrstable j v) s)

/-- Ticking with no input changing emits nothing and changes no state (41_debouncer.md R128). -/
def Obligations.QuietTickChangesNothing : Prop :=
  ∀ s : State, (∀ i, i < s.cfg.inputCount → s.readChg i = false) →
    exec .dbTick s = .next { s with response := some 0 }

/-- Debounce stability (41_debouncer.md R127, R129): after a DB_SAMPLE that changes input i's raw value
to x, over any commands that do not change it again and complete without a fault, the input reports
nothing before the C(x)-th tick, and exactly once, with level x, at that tick. -/
def Obligations.DebounceStability : Prop :=
  ∀ (s s₁ t : State) (i : Nat) (j : Half) (v : Byte) (is : List Instr), debouncerSound s →
    s.fault = none → i < s.cfg.inputCount → 8 * j.toNat ≤ i → i < 8 * j.toNat + 8 →
    v.getLsbD (i - 8 * j.toNat) ≠ s.readRaw i → exec (.dbSample j v) s = .next s₁ →
    let x := v.getLsbD (i - 8 * j.toNat)
    (∀ c ∈ is, keepsRaw i x c) → execAll is s₁ = .next t → t.fault = none →
    (ticksIn is < count s.cfg x → changesOf i t.ev = changesOf i s.ev)
      ∧ (ticksIn is = count s.cfg x → changesOf i t.ev = changesOf i s.ev ++ [x])

/-- The order of the DB_SAMPLE commands of a slice does not matter: samples of different bytes commute
(41_debouncer.md R125). -/
def Obligations.SampleOrderImmaterial : Prop :=
  ∀ (j k : Half) (v w : Byte) (s : State), s.Shaped → j ≠ k →
    j.toNat < (s.cfg.inputCount + 7) / 8 → k.toNat < (s.cfg.inputCount + 7) / 8 →
    ∃ t, execAll [.dbSample j v, .dbSample k w] s = .next t
      ∧ ∃ u, execAll [.dbSample k w, .dbSample j v] s = .next u
        ∧ (∀ i, filterState t i = filterState u i) ∧ t.ev = s.ev ∧ u.ev = s.ev

/-- The inputs are independent: what a debouncer command does to input i and reports for it does not
depend on the state of another input (41_debouncer.md R120). -/
def Obligations.InputsIndependent : Prop :=
  ∀ (s u s' u' : State) (i : Nat) (cmd : Instr), s.Shaped → u.Shaped → s.cfg = u.cfg →
    i < s.cfg.inputCount → filterState s i = filterState u i → changesOf i s.ev = changesOf i u.ev →
    (cmd = .dbTick ∨ ∃ j v, cmd = .dbSample j v ∨ cmd = .dbWrstable j v) →
    exec cmd s = .next s' → exec cmd u = .next u' →
    filterState s' i = filterState u' i ∧ changesOf i s'.ev = changesOf i u'.ev

/-! ## The checksum generator and the frame encoding -/

/-- CK_INIT (42_checksum.md R165): TXACC takes ckInit() (R161); the receiver is not touched. -/
def Obligations.CkInitResult : Prop :=
  Issues 0x20 true true (fun _ _ => .ckInit)
    ∧ ∀ s : State, exec .ckInit s = .next { s with
        txAcc := (match s.cfg.ckPolicy with | .xor8 => 0 | .crc16 => BitVec.ofNat 16 s.cfg.crcInit)
        response := some 0 }

/-- CK_UPDATE (42_checksum.md R166): TXACC takes ckUpdate(TXACC, v), under XOR8 the exclusive or with
the byte (R162), under CRC16 the CRC step (R163). -/
def Obligations.CkUpdateResult : Prop :=
  Issues 0x21 false true (fun a _ => .ckUpdate a)
    ∧ ∀ (v : Byte) (s : State), exec (.ckUpdate v) s = .next { s with
        txAcc := (match s.cfg.ckPolicy with
          | .xor8 => s.txAcc ^^^ v.setWidth 16
          | .crc16 => crcUpdate s.txAcc v)
        response := some 0 }

/-- CK_READ (42_checksum.md R167): it responds TXACC and changes nothing. -/
def Obligations.CkReadResult : Prop :=
  Issues 0x22 true true (fun _ _ => .ckRead)
    ∧ ∀ s : State, exec .ckRead s = .next { s with response := some s.txAcc }

/-- CK_VERIFY (42_checksum.md R168): it responds 1 exactly when the expected checksum agrees with TXACC,
in the low byte under XOR8 and in all 16 bits under CRC16, and changes nothing. -/
def Obligations.CkVerifyResult : Prop :=
  Issues 0x23 true false (fun _ b => .ckVerify b)
    ∧ ∀ (e : Half) (s : State), exec (.ckVerify e) s = .next { s with
        response := some (match s.cfg.ckPolicy with
          | .xor8 => if e.toNat % 256 = s.txAcc.toNat % 256 then 1 else 0
          | .crc16 => if e = s.txAcc then 1 else 0) }

/-- Both verdicts of XOR8 are one: the low bytes are equal, and folding the checksum byte into the
accumulator gives zero (42_checksum.md R169). -/
def Obligations.XorVerdictsAgree : Prop :=
  ∀ c : Config, c.ckPolicy = .xor8 →
    (∀ e acc : Half, checksumVerify c e acc = true ↔ e.toNat % 256 = acc.toNat % 256)
      ∧ ∀ (acc : Half) (b : Byte), acc.toNat < 256 →
        (checksumVerify c (b.setWidth 16) acc = true ↔ checksumFold c acc b = 0)

/-- The CRC16 update is the bit-serial division by 0x1021 of 42_checksum.md R163, on numbers: eight
conditional shifts of the accumulator with the byte exclusive-ored into its high half. -/
def Obligations.CrcIsBitSerial : Prop :=
  ∀ (acc : Half) (v : Byte),
    (crcUpdate acc v).toNat = Nat.repeat crcBitStep 8 (acc.toNat ^^^ (v.toNat * 256))

/-- The check values of 42_checksum.md R175 and the XOR worked value of R176. -/
def Obligations.ChecksumCheckValues : Prop :=
  checksumOf (crcConfig 0) asciiDigits = 0x31C3 ∧ checksumOf (crcConfig 0) [0x01] = 0x1021
    ∧ checksumOf (crcConfig 0) [0xFF] = 0x1EF0
    ∧ checksumOf (crcConfig 0) [0x05, 0x02, 0x03, 0x10, 0x20, 0x30] = 0xEF88
    ∧ checksumOf (crcConfig 0xFFFF) asciiDigits = 0x29B1
    ∧ encodeFrame Config.reference 0x05 0x02 [0x10, 0x20, 0x30]
        = some [0x05, 0x02, 0x03, 0x10, 0x20, 0x30, 0x04]

/-- CK_BLOCK over the body of a frame leaves in TXACC the checksum whose bytes end the frame, one byte
under XOR8, high byte first under CRC16 (42_checksum.md R171, R172). -/
def Obligations.CkBlockComputesFrameChecksum : Prop :=
  ∀ (s : State) (toAddr fromAddr : Byte) (payload : List Byte), payload.length ≤ 255 →
    ∃ u, execAll (.ckInit :: ([toAddr, fromAddr, BitVec.ofNat 8 payload.length] ++ payload).map .ckUpdate) s
        = .next u
      ∧ u = { s with txAcc := u.txAcc, response := some 0 }
      ∧ encodeFrame s.cfg toAddr fromAddr payload
        = some ([toAddr, fromAddr, BitVec.ofNat 8 payload.length] ++ payload
            ++ (match s.cfg.ckPolicy with
              | .xor8 => [BitVec.ofNat 8 u.txAcc.toNat]
              | .crc16 => [BitVec.ofNat 8 (u.txAcc.toNat / 256), BitVec.ofNat 8 u.txAcc.toNat]))

/-- The frame record (20_memory.md R64, R66, R67) and the sizes on the wire (42_checksum.md R170). -/
def Obligations.FrameRecordLayout : Prop :=
  (∀ f : CommFrame, f.payload.length ≤ 255 →
    (frameRecord f).length = f.payload.length + 4 ∧ byteAt (frameRecord f) 0 = f.retryCount
      ∧ (byteAt (frameRecord f) 1).toNat = f.payload.length ∧ byteAt (frameRecord f) 2 = f.toAddr
      ∧ byteAt (frameRecord f) 3 = f.fromAddr
      ∧ ∀ k, k < f.payload.length → byteAt (frameRecord f) (4 + k) = byteAt f.payload k)
    ∧ (∀ (c : Config) (toAddr fromAddr : Byte) (payload bytes : List Byte),
      encodeFrame c toAddr fromAddr payload = some bytes →
      bytes.length = payload.length + 3 + (match c.ckPolicy with | .xor8 => 1 | .crc16 => 2))
    ∧ (∀ (buffer : Memory) (base : Nat),
      nextRecord buffer base = base + (memRead buffer (base + 1)).toNat + 4)
    ∧ ∀ f : CommFrame, (f.retryCount = 0xFF → resend f = none)
      ∧ (f.retryCount ≠ 0xFF → ∃ g, resend f = some g ∧ g.retryCount.toNat = f.retryCount.toNat + 1
          ∧ g = { f with retryCount := g.retryCount })

/-! ## The receiver -/

/-- RX_ARM (43_receiver.md R191): in IDLE it opens the start-byte window at t and changes nothing else;
in any other state it faults ARM_NOT_IDLE. -/
def Obligations.RxArmResult : Prop :=
  Issues 0x30 true false (fun _ b => .rxArm b)
    ∧ ∀ (t : Half) (s : State),
      (s.rxState = .idle → exec (.rxArm t) s = .next { s with
        rxState := .awaitStart, rxMark := t, rxPos := 0, response := some 0 })
      ∧ (s.rxState ≠ .idle → FaultsWith .armNotIdle (.rxArm t) s)

/-- RX_BYTE never faults, responds 0, changes the receiver's registers and EV alone, and of RXBUF only
the offsets its receiver state stores to (43_receiver.md R192, R195, R196, R199, R201). -/
def Obligations.RxByteFrame : Prop :=
  Issues 0x31 false false (fun a b => .rxByte a b)
    ∧ ∀ (v : Byte) (t : Half) (s : State), ∃ u, exec (.rxByte v t) s = .next u
      ∧ u = { s with
          rxState := u.rxState, rxMark := u.rxMark, rxPos := u.rxPos, rxLen := u.rxLen, rxBuf := u.rxBuf
          rxAcc := u.rxAcc, rxCk := u.rxCk, lastErr := u.lastErr, errFlags := u.errFlags
          frameValid := u.frameValid, ev := u.ev, response := some 0 }
      ∧ ∀ a, a ∉ storedOffsets t s → u.readBuf a = s.readBuf a

/-- A byte that starts a frame (43_receiver.md R192, R195): HEADER with the `from` byte expected, the
byte in RXBUF[2], 0 in RXBUF[0], the checksum begun, FRAME_VALID cleared; a late one has reported its
timeout first; nothing else changes. -/
def Obligations.RxByteStartsFrame : Prop :=
  ∀ (v : Byte) (t : Half) (s : State), bufferReady s → startsFrame t s = true →
    ∃ u, exec (.rxByte v t) s = .next u
      ∧ u.readBuf 0 = 0 ∧ u.readBuf 2 = v ∧ (∀ a, a ≠ 0 → a ≠ 2 → u.readBuf a = s.readBuf a)
      ∧ ∃ late : Option ErrCode,
          late = (if s.rxState = .awaitStart ∧ s.cfg.tStart < gap t s.rxMark then some .errTimeoutStart
            else if inFrame s then some .errTimeout else none)
          ∧ u = { s with
              rxState := .header, rxPos := 1, rxMark := t, rxBuf := u.rxBuf, frameValid := false
              rxAcc := checksumFold s.cfg (checksumStart s.cfg) v, response := some 0
              lastErr := late.getD s.lastErr
              errFlags := s.errFlags ||| (match late with
                | some .errTimeoutStart => 0b01000#5 | some _ => 0b00100#5 | none => 0#5)
              ev := s.ev ++ (late.map Event.rxError).toList }

/-- A byte that is not taken into a frame under the policy Unexpected (43_receiver.md R192): in IDLE it
is reported errUnexpected; late, its timeout is reported and it is dropped; either way the receiver
is in IDLE and RXBUF and FRAME_VALID are as before. -/
def Obligations.RxByteDropped : Prop :=
  ∀ (v : Byte) (t : Half) (s : State), s.cfg.idleBytePolicy = .unexpected →
    (s.rxState = .idle → exec (.rxByte v t) s = .next { s with
      lastErr := .errUnexpected, errFlags := s.errFlags ||| 0b10000#5
      ev := s.ev ++ [.rxError .errUnexpected], response := some 0 })
    ∧ (s.rxState = .awaitStart → s.cfg.tStart < gap t s.rxMark → exec (.rxByte v t) s = .next { s with
      rxState := .idle, rxPos := 0, lastErr := .errTimeoutStart, errFlags := s.errFlags ||| 0b01000#5
      ev := s.ev ++ [.rxError .errTimeoutStart], response := some 0 })
    ∧ (inFrame s → s.cfg.tGap < gap t s.rxMark → exec (.rxByte v t) s = .next { s with
      rxState := .idle, rxPos := 0, lastErr := .errTimeout, errFlags := s.errFlags ||| 0b00100#5
      ev := s.ev ++ [.rxError .errTimeout], response := some 0 })

/-- A header byte in its window (43_receiver.md R196 to R198): the `from` byte goes to RXBUF[3] and the
addresses are checked; the `len` byte goes to RXBUF[1] and the length is checked before anything of
the payload is stored; a length of 0 goes straight to CHECKSUM. -/
def Obligations.RxByteHeader : Prop :=
  ∀ (v : Byte) (t : Half) (s : State), bufferReady s → s.rxState = .header →
    gap t s.rxMark ≤ s.cfg.tGap →
    ∃ u, exec (.rxByte v t) s = .next u
      ∧ (s.rxPos = 1 → u.readBuf 3 = v ∧ (∀ a, a ≠ 3 → u.readBuf a = s.readBuf a)
        ∧ u = if addrSane s.cfg (s.readBuf 2) v = true then { s with
              rxMark := t, rxAcc := checksumFold s.cfg s.rxAcc v, rxBuf := u.rxBuf, rxPos := 2
              response := some 0 }
            else { s with
              rxMark := t, rxAcc := checksumFold s.cfg s.rxAcc v, rxBuf := u.rxBuf, rxPos := 0
              rxState := .idle, lastErr := .errUnexpected, errFlags := s.errFlags ||| 0b10000#5
              ev := s.ev ++ [.rxError .errUnexpected], response := some 0 })
      ∧ (s.rxPos = 2 → u.readBuf 1 = v ∧ (∀ a, a ≠ 1 → u.readBuf a = s.readBuf a)
        ∧ u = if s.cfg.recvBufferSize < v.toNat + 4 then { s with
              rxMark := t, rxAcc := checksumFold s.cfg s.rxAcc v, rxBuf := u.rxBuf, rxPos := 0
              rxState := .idle, lastErr := .errLong, errFlags := s.errFlags ||| 0b00010#5
              ev := s.ev ++ [.rxError .errLong], response := some 0 }
            else { s with
              rxMark := t, rxAcc := checksumFold s.cfg s.rxAcc v, rxBuf := u.rxBuf, rxPos := 0
              rxLen := v, rxState := if v = 0 then .checksum else .payload, response := some 0 })

/-- A payload byte in its window (43_receiver.md R199): it goes to RXBUF[4 + RXPOS] and into the
checksum, and the last one moves the receiver to CHECKSUM. -/
def Obligations.RxBytePayload : Prop :=
  ∀ (v : Byte) (t : Half) (s : State), receiverSound s → s.rxState = .payload →
    gap t s.rxMark ≤ s.cfg.tGap →
    ∃ u, exec (.rxByte v t) s = .next u ∧ u.readBuf (4 + s.rxPos.toNat) = v
      ∧ (∀ a, a ≠ 4 + s.rxPos.toNat → u.readBuf a = s.readBuf a)
      ∧ u = if s.rxPos.toNat + 1 = s.rxLen.toNat then { s with
            rxMark := t, rxAcc := checksumFold s.cfg s.rxAcc v, rxBuf := u.rxBuf, rxPos := 0
            rxState := .checksum, response := some 0 }
          else { s with
            rxMark := t, rxAcc := checksumFold s.cfg s.rxAcc v, rxBuf := u.rxBuf
            rxPos := BitVec.ofNat 8 (s.rxPos.toNat + 1), response := some 0 }

/-- A checksum byte in its window (43_receiver.md R201): the CRC's first byte is kept as the high byte;
the last byte completes the frame, which is delivered with its `forUs` bit (R202) when the checksum
agrees and reported errChecksum when it does not; RXBUF stays as it is. -/
def Obligations.RxByteChecksum : Prop :=
  ∀ (v : Byte) (t : Half) (s : State), s.rxState = .checksum → gap t s.rxMark ≤ s.cfg.tGap →
    (¬ lastChecksumByte s → exec (.rxByte v t) s = .next { s with
      rxMark := t, rxCk := BitVec.ofNat 16 (v.toNat * 256), rxPos := 1, response := some 0 })
    ∧ (lastChecksumByte s → checksumVerify s.cfg (receivedChecksum v s) s.rxAcc = true →
      exec (.rxByte v t) s = .next { s with
        rxMark := t, rxCk := receivedChecksum v s, rxState := .idle, rxPos := 0
        lastErr := .errNone, frameValid := true, ev := s.ev ++ [stagedFrame s], response := some 0 })
    ∧ (lastChecksumByte s → checksumVerify s.cfg (receivedChecksum v s) s.rxAcc = false →
      exec (.rxByte v t) s = .next { s with
        rxMark := t, rxCk := receivedChecksum v s, rxState := .idle, rxPos := 0
        lastErr := .errChecksum, errFlags := s.errFlags ||| 0b00001#5
        ev := s.ev ++ [.rxError .errChecksum], response := some 0 })

/-- The receiver transition table of 43_receiver.md R205, row by row. -/
def Obligations.ReceiverTransitions : Prop :=
  ∀ (v : Byte) (t : Half) (s : State), bufferReady s → s.rxState ≠ .complete →
    (s.rxState = .idle → goesTo (.rxArm t) s .awaitStart [])
    ∧ (s.rxState = .idle → s.cfg.idleBytePolicy = .startFrame →
        goesTo (.rxByte v t) s .header [] ∧ ∃ u, exec (.rxByte v t) s = .next u ∧ u.rxPos = 1)
    ∧ (s.rxState = .idle → s.cfg.idleBytePolicy = .unexpected →
        goesTo (.rxByte v t) s .idle [.rxError .errUnexpected])
    ∧ (s.rxState = .idle → goesTo (.rxPoll t) s .idle [])
    ∧ (s.rxState = .awaitStart → gap t s.rxMark ≤ s.cfg.tStart → goesTo (.rxByte v t) s .header [])
    ∧ (s.rxState = .awaitStart → s.cfg.tStart < gap t s.rxMark → s.cfg.idleBytePolicy = .startFrame →
        goesTo (.rxByte v t) s .header [.rxError .errTimeoutStart])
    ∧ (s.rxState = .awaitStart → s.cfg.tStart < gap t s.rxMark → s.cfg.idleBytePolicy = .unexpected →
        goesTo (.rxByte v t) s .idle [.rxError .errTimeoutStart])
    ∧ (s.rxState = .awaitStart → s.cfg.tStart < gap t s.rxMark →
        goesTo (.rxPoll t) s .idle [.rxError .errTimeoutStart])
    ∧ (s.rxState = .header → s.rxPos = 1 → gap t s.rxMark ≤ s.cfg.tGap →
        addrSane s.cfg (s.readBuf 2) v = true →
        goesTo (.rxByte v t) s .header [] ∧ ∃ u, exec (.rxByte v t) s = .next u ∧ u.rxPos = 2)
    ∧ (s.rxState = .header → s.rxPos = 1 → gap t s.rxMark ≤ s.cfg.tGap →
        addrSane s.cfg (s.readBuf 2) v = false → goesTo (.rxByte v t) s .idle [.rxError .errUnexpected])
    ∧ (s.rxState = .header → s.rxPos = 2 → gap t s.rxMark ≤ s.cfg.tGap →
        s.cfg.recvBufferSize < v.toNat + 4 → goesTo (.rxByte v t) s .idle [.rxError .errLong])
    ∧ (s.rxState = .header → s.rxPos = 2 → gap t s.rxMark ≤ s.cfg.tGap →
        v.toNat + 4 ≤ s.cfg.recvBufferSize → v = 0 → goesTo (.rxByte v t) s .checksum [])
    ∧ (s.rxState = .header → s.rxPos = 2 → gap t s.rxMark ≤ s.cfg.tGap →
        v.toNat + 4 ≤ s.cfg.recvBufferSize → v ≠ 0 → goesTo (.rxByte v t) s .payload [])
    ∧ (s.rxState = .payload → gap t s.rxMark ≤ s.cfg.tGap → s.rxPos + 1 ≠ s.rxLen →
        goesTo (.rxByte v t) s .payload [])
    ∧ (s.rxState = .payload → gap t s.rxMark ≤ s.cfg.tGap → s.rxPos + 1 = s.rxLen →
        goesTo (.rxByte v t) s .checksum [])
    ∧ (s.rxState = .checksum → gap t s.rxMark ≤ s.cfg.tGap → ¬ lastChecksumByte s →
        goesTo (.rxByte v t) s .checksum [])
    ∧ (s.rxState = .checksum → gap t s.rxMark ≤ s.cfg.tGap → lastChecksumByte s →
        checksumVerify s.cfg (receivedChecksum v s) s.rxAcc = true →
        goesTo (.rxByte v t) s .idle [stagedFrame s])
    ∧ (s.rxState = .checksum → gap t s.rxMark ≤ s.cfg.tGap → lastChecksumByte s →
        checksumVerify s.cfg (receivedChecksum v s) s.rxAcc = false →
        goesTo (.rxByte v t) s .idle [.rxError .errChecksum])
    ∧ (inFrame s → s.cfg.tGap < gap t s.rxMark → s.cfg.idleBytePolicy = .startFrame →
        goesTo (.rxByte v t) s .header [.rxError .errTimeout])
    ∧ (inFrame s → s.cfg.tGap < gap t s.rxMark → s.cfg.idleBytePolicy = .unexpected →
        goesTo (.rxByte v t) s .idle [.rxError .errTimeout])
    ∧ (inFrame s → s.cfg.tGap < gap t s.rxMark → goesTo (.rxPoll t) s .idle [.rxError .errTimeout])
    ∧ (s.rxState ≠ .idle → FaultsWith .armNotIdle (.rxArm t) s)
    ∧ (s.rxState = .awaitStart → gap t s.rxMark ≤ s.cfg.tStart →
        exec (.rxPoll t) s = .next { s with response := some 0 })
    ∧ (inFrame s → gap t s.rxMark ≤ s.cfg.tGap →
        exec (.rxPoll t) s = .next { s with response := some 0 })

/-- RX_POLL (43_receiver.md R194): in IDLE and inside a window it changes nothing; past a window it
reports the timeout and goes to IDLE; RXBUF and FRAME_VALID stay. -/
def Obligations.RxPollResult : Prop :=
  Issues 0x32 true false (fun _ b => .rxPoll b)
    ∧ ∀ (t : Half) (s : State),
      (s.rxState = .idle → exec (.rxPoll t) s = .next { s with response := some 0 })
      ∧ (s.rxState = .awaitStart → exec (.rxPoll t) s = .next
          (if s.cfg.tStart < gap t s.rxMark then { s with
            rxState := .idle, lastErr := .errTimeoutStart, errFlags := s.errFlags ||| 0b01000#5
            ev := s.ev ++ [.rxError .errTimeoutStart], response := some 0 }
          else { s with response := some 0 }))
      ∧ (inFrame s → exec (.rxPoll t) s = .next
          (if s.cfg.tGap < gap t s.rxMark then { s with
            rxState := .idle, rxPos := 0, lastErr := .errTimeout, errFlags := s.errFlags ||| 0b00100#5
            ev := s.ev ++ [.rxError .errTimeout], response := some 0 }
          else { s with response := some 0 }))

/-- RX_STATUS (43_receiver.md R203): it changes nothing, and its response has the layout of 10_state.md
R40: STATE in [2:0], LAST in [5:3], FV in bit 6, the five flags in [12:8], 0 elsewhere. -/
def Obligations.RxStatusResult : Prop :=
  Issues 0x33 true true (fun _ _ => .rxStatus)
    ∧ ∀ s : State, ∃ r : Half, exec .rxStatus s = .next { s with response := some r }
      ∧ r.toNat % 8 = (match s.rxState with
          | .idle => 0 | .awaitStart => 1 | .header => 2 | .payload => 3 | .checksum => 4 | .complete => 5)
      ∧ r.toNat / 8 % 8 = (match s.lastErr with
          | .errNone => 0 | .errChecksum => 1 | .errLong => 2 | .errTimeout => 3
          | .errTimeoutStart => 4 | .errUnexpected => 5)
      ∧ r.getLsbD 6 = s.frameValid ∧ r.getLsbD 7 = false
      ∧ (∀ k, k < 5 → r.getLsbD (8 + k) = s.errFlags.getLsbD k)
      ∧ ∀ k, 13 ≤ k → r.getLsbD k = false

/-- RX_CLRERR (43_receiver.md R206): ERRFLAGS and LASTERR are cleared and nothing else changes. -/
def Obligations.RxClrerrResult : Prop :=
  Issues 0x34 true true (fun _ _ => .rxClrerr)
    ∧ ∀ s : State, exec .rxClrerr s = .next { s with
        errFlags := 0, lastErr := .errNone, response := some 0 }

/-- RX_RDBUF (43_receiver.md R204): it responds the byte at the offset and changes nothing; an
out-of-range offset faults INDEX_RANGE. -/
def Obligations.RxRdbufResult : Prop :=
  Issues 0x35 true false (fun _ b => .rxRdbuf b)
    ∧ ∀ (k : Half) (s : State),
      (k.toNat < s.cfg.recvBufferSize →
        ∃ r : Half, exec (.rxRdbuf k) s = .next { s with response := some r }
          ∧ r.toNat = (s.readBuf k.toNat).toNat)
      ∧ (s.cfg.recvBufferSize ≤ k.toNat → FaultsWith .indexRange (.rxRdbuf k) s)

/-- A receiver command appends at most one event, a reported error or a frame, and a reported error
leaves the receiver in IDLE, or in HEADER at the start of a new frame (43_receiver.md R207). -/
def Obligations.ReceiverEmitsAtMostOneEvent : Prop :=
  ∀ (i : Instr) (s t : State),
    (∃ v x, i = .rxByte v x ∨ i = .rxArm x ∨ i = .rxPoll x ∨ i = .rxStatus ∨ i = .rxClrerr ∨ i = .rxRdbuf x) →
    exec i s = .next t →
    t.ev = s.ev
      ∨ (∃ code, code ≠ .errNone ∧ t.ev = s.ev ++ [.rxError code]
          ∧ (t.rxState = .idle ∨ t.rxState = .header ∧ t.rxPos = 1))
      ∨ ∃ toAddr fromAddr len payload forUs,
          t.ev = s.ev ++ [.rxFrame toAddr fromAddr len payload forUs] ∧ t.rxState = .idle

/-- Checksum round trip (42_checksum.md R173): the bytes of an encoded frame, fed to a receiver that is
ready for a frame, each within T_GAP of the one before, emit exactly the RxFrame with the same
addresses, length and payload, leave LASTERR = errNone and return the receiver to IDLE. -/
def Obligations.ChecksumRoundTrip : Prop :=
  ∀ (s : State) (toAddr fromAddr : Byte) (payload bytes : List Byte) (times : List Half),
    configLegal s.cfg = true → memWf s.rxBuf = true →
    encodeFrame s.cfg toAddr fromAddr payload = some bytes →
    payload.length + 4 ≤ s.cfg.recvBufferSize → addrSane s.cfg toAddr fromAddr = true →
    times.length = bytes.length → readyForFrame (times.getD 0 0) s → gapsWithin s.cfg.tGap times →
    ∃ u, execAll (List.zipWith .rxByte bytes times) s = .next u
      ∧ u.ev = s.ev ++ [.rxFrame toAddr fromAddr (BitVec.ofNat 8 payload.length) payload
          (decide (toAddr = 0xFF#8 ∨ toAddr.toNat = s.cfg.busId))]
      ∧ u.lastErr = .errNone ∧ u.rxState = .idle ∧ u.frameValid = true ∧ u.fault = s.fault

/-- Single-byte corruption under XOR8 (42_checksum.md R174): with one byte other than `len` replaced by a
different value, and addresses the sanity check still takes, the receiver reports errChecksum and
emits no RxFrame. -/
def Obligations.CorruptedByteReported : Prop :=
  ∀ (s : State) (toAddr fromAddr b : Byte) (payload bytes : List Byte) (times : List Half) (k : Nat),
    configLegal s.cfg = true → memWf s.rxBuf = true → s.cfg.ckPolicy = .xor8 →
    encodeFrame s.cfg toAddr fromAddr payload = some bytes →
    payload.length + 4 ≤ s.cfg.recvBufferSize → k < bytes.length → k ≠ 2 → b ≠ byteAt bytes k →
    addrSane s.cfg (byteAt (bytes.set k b) 0) (byteAt (bytes.set k b) 1) = true →
    times.length = bytes.length → readyForFrame (times.getD 0 0) s → gapsWithin s.cfg.tGap times →
    ∃ u, execAll (List.zipWith .rxByte (bytes.set k b) times) s = .next u
      ∧ u.ev = s.ev ++ [.rxError .errChecksum] ∧ u.lastErr = .errChecksum ∧ u.rxState = .idle
      ∧ u.frameValid = false

/-! ## The assembler -/

/-- The words of the assembler's syntax, and an operand that does not fit its field is an error
(30_encoding.md R87). -/
def Obligations.AssemblerWords : Prop :=
  (∀ op ∈ [("TM_SET", 0x01), ("DB_RDSTABLE", 0x12), ("CK_VERIFY", 0x23), ("RX_ARM", 0x30),
      ("RX_POLL", 0x32), ("RX_RDBUF", 0x35)], ∀ n : Nat,
    (assemble op.1 [n]).map (List.map encode)
      = if n ≤ 0xFFFF then some [BitVec.ofNat 32 (op.2 * 2 ^ 24 + n)] else none)
    ∧ (∀ op ∈ [("TM_MARK", 0x02), ("CK_UPDATE", 0x21)], ∀ n : Nat,
      (assemble op.1 [n]).map (List.map encode)
        = if n ≤ 0xFF then some [BitVec.ofNat 32 (op.2 * 2 ^ 24 + n * 2 ^ 16)] else none)
    ∧ (∀ op ∈ [("TM_ELAPSED", 0x03), ("RX_BYTE", 0x31)], ∀ m n : Nat,
      (assemble op.1 [m, n]).map (List.map encode)
        = if m ≤ 0xFF ∧ n ≤ 0xFFFF then some [BitVec.ofNat 32 (op.2 * 2 ^ 24 + m * 2 ^ 16 + n)] else none)
    ∧ (∀ op ∈ [("DB_SAMPLE", 0x10), ("DB_WRSTABLE", 0x13)], ∀ m n : Nat,
      (assemble op.1 [m, n]).map (List.map encode)
        = if m ≤ 0xFFFF ∧ n ≤ 0xFF then some [BitVec.ofNat 32 (op.2 * 2 ^ 24 + n * 2 ^ 16 + m)] else none)
    ∧ ∀ op ∈ [("DB_TICK", 0x11), ("CK_INIT", 0x20), ("CK_READ", 0x22), ("RX_STATUS", 0x33),
        ("RX_CLRERR", 0x34)],
      (assemble op.1 []).map (List.map encode) = some [BitVec.ofNat 32 (op.2 * 2 ^ 24)]
end

