-- ==== Sys2Proof/Laws/Bits.lean ====
section
/-! SUPPORT. Laws/Bits.lean: the bit-vector codec (20_memory.md R60, R61) and the presented byte with
its padding (10_state.md R29). -/

namespace Sys2Proof.Machine

@[simp] theorem length_bitWrite (A : List Byte) (i : Nat) (v : Bool) :
    (bitWrite A i v).length = A.length := by
  simp [bitWrite]

theorem byteAt_set (A : List Byte) (j k : Nat) (b : Byte) :
    byteAt (A.set j b) k = if j = k ∧ j < A.length then b else byteAt A k := by
  simp only [byteAt, List.getD_eq_getElem?_getD, List.getElem?_set]
  by_cases hjk : j = k
  · subst hjk
    by_cases hlt : j < A.length <;> simp [hlt]
  · simp [hjk]

/-- Bit k of a byte after the bit m of it was written with v. -/
theorem getLsbD_writtenByte (b : Byte) (m k : Nat) (v : Bool) (hk : k < 8) (hm : m < 8) :
    ((b &&& ~~~(1#8 <<< m)) ||| ((BitVec.ofBool v).setWidth 8 <<< m)).getLsbD k
      = if k = m then v else b.getLsbD k := by
  by_cases hkm : k = m
  · subst hkm
    simp [hk]
  · by_cases hlt : k < m
    · simp [hk, hlt, hkm]
    · have hsub : k - m ≠ 0 := by omega
      have hsub' : ¬ k - m = 0 := hsub
      simp [hk, hlt, hkm, BitVec.getLsbD_ofBool, hsub']

/-- Reading a bit after writing one: the bit written has its new value, every other bit its old one
(20_memory.md R61). -/
theorem bitRead_bitWrite (A : List Byte) (i k : Nat) (v : Bool) :
    bitRead (bitWrite A i v) k = if k = i ∧ i / 8 < A.length then v else bitRead A k := by
  unfold bitRead bitWrite
  rw [byteAt_set]
  by_cases hbyte : i / 8 = k / 8
  · by_cases hlen : i / 8 < A.length
    · rw [if_pos ⟨hbyte, hlen⟩, getLsbD_writtenByte _ _ _ _ (Nat.mod_lt _ (by omega)) (Nat.mod_lt _ (by omega))]
      by_cases hk : k = i
      · subst hk; simp [hlen]
      · have hmod : k % 8 ≠ i % 8 := fun h => hk (by omega)
        simp [hk, hmod, hbyte]
    · simp [hlen]
  · have hk : k ≠ i := fun h => hbyte (by rw [h])
    simp [hbyte, hk]

theorem bitRead_bitWrite_same (A : List Byte) (i : Nat) (v : Bool) (h : i / 8 < A.length) :
    bitRead (bitWrite A i v) i = v := by
  simp [bitRead_bitWrite, h]

theorem bitRead_bitWrite_other (A : List Byte) {i k : Nat} (v : Bool) (h : k ≠ i) :
    bitRead (bitWrite A i v) k = bitRead A k := by
  simp [bitRead_bitWrite, h]

/-- The formula of 20_memory.md R60. -/
theorem bitRead_formula (A : List Byte) (i : Nat) :
    bitRead A i = ((byteAt A (i >>> 3) >>> (i &&& 7)).getLsbD 0) := by
  have h7 : i &&& 7 = i % 8 := by
    rw [show (7 : Nat) = 2 ^ 3 - 1 from rfl, Nat.and_two_pow_sub_one_eq_mod]
  simp [bitRead, h7, Nat.shiftRight_eq_div_pow]

/-- A bit of an all-zero array is 0. -/
theorem bitRead_replicate_zero (n i : Nat) : bitRead (List.replicate n 0) i = false := by
  simp only [bitRead, byteAt, List.getD_eq_getElem?_getD, List.getElem?_replicate]
  split <;> simp

/-- What the loop of `presentByte` has collected after the bits below m. -/
theorem getLsbD_presentByte_loop (n : Nat) (A : List Byte) (j m k : Nat) (hm : m ≤ 8) :
    ((List.range m).foldl
        (fun b k => if 8 * j + k < n && bitRead A (8 * j + k) then b ||| (1#8 <<< k) else b) (0 : Byte)).getLsbD k
      = (decide (k < m) && decide (8 * j + k < n) && bitRead A (8 * j + k)) := by
  induction m with
  | zero => simp
  | succ m ih =>
    have ih := ih (by omega)
    rw [List.range_succ, List.foldl_append, List.foldl_cons, List.foldl_nil]
    by_cases hcond : (decide (8 * j + m < n) && bitRead A (8 * j + m)) = true
    · rw [if_pos hcond, BitVec.getLsbD_or, ih]
      simp only [Bool.and_eq_true, decide_eq_true_eq] at hcond
      by_cases hkm : k = m
      · subst hkm
        have hk8 : k < 8 := by omega
        simp [hcond.1, hcond.2, hk8]
      · by_cases hlt : k < m
        · have hlt' : k < m + 1 := by omega
          simp [hlt, hlt']
        · have h1 : ¬ k < m + 1 := by omega
          have h2 : ¬ k - m = 0 := by omega
          simp [hlt, h1, h2]
    · rw [if_neg hcond, ih]
      by_cases hkm : k = m
      · subst hkm
        simp only [Bool.and_eq_true, decide_eq_true_eq, not_and, Bool.not_eq_true] at hcond
        by_cases hn : 8 * j + k < n
        · simp [hcond hn]
        · simp [hn]
      · have hiff : k < m + 1 ↔ k < m := by omega
        simp [hiff]

/-- Bit k of the presented byte: the input's bit, and 0 for padding (10_state.md R29). -/
theorem getLsbD_presentByte (n : Nat) (A : List Byte) (j k : Nat) :
    (presentByte n A j).getLsbD k
      = (decide (k < 8) && decide (8 * j + k < n) && bitRead A (8 * j + k)) :=
  getLsbD_presentByte_loop n A j 8 k (le_refl 8)

@[simp] theorem length_initialStable (c : Config) : (initialStable c).length = byteCount c := by
  simp [initialStable]

/-- An input's bit of STABLE_INIT as the debouncer sees it. -/
theorem bitRead_initialStable (c : Config) (i : Nat) (h : i < c.inputCount) :
    bitRead (initialStable c) i = bitRead c.stableInit i := by
  have hbyte : i / 8 < byteCount c := by unfold byteCount; omega
  have hidx : 8 * (i / 8) + i % 8 = i := by omega
  simp only [bitRead, byteAt, initialStable, List.getD_eq_getElem?_getD, List.getElem?_map,
    List.getElem?_range hbyte, Option.map_some, Option.getD_some]
  rw [getLsbD_presentByte, hidx]
  simp [h, Nat.mod_lt, bitRead, byteAt]

end Sys2Proof.Machine
end

