-- ==== Sys2Proof/Laws/Memory.lean ====
section
/-! SUPPORT. Laws/Memory.lean: a write keeps the canonical form, a read after a write to the same
address gives the byte written, and a write leaves every other address alone (20_memory.md R65). -/

namespace Sys2Proof.Machine

theorem memAbove_cons (x a : Nat) (b : Byte) (m : Memory) :
    memAbove x ((a, b) :: m) = true ↔ x < a ∧ memAbove x m = true := by
  simp [memAbove]

theorem memWf_cons (a : Nat) (b : Byte) (m : Memory) :
    memWf ((a, b) :: m) = true ↔ b ≠ unlistedByte ∧ memAbove a m = true ∧ memWf m = true := by
  simp [memWf, and_assoc]

theorem memAbove_trans {x y : Nat} {m : Memory} (hxy : x ≤ y) (h : memAbove y m = true) :
    memAbove x m = true := by
  simp only [memAbove, List.all_eq_true, decide_eq_true_eq] at *
  exact fun c hc => lt_of_le_of_lt hxy (h c hc)

/-- An address below every listed one is unlisted. -/
theorem memRead_of_memAbove {x : Nat} {m : Memory} (h : memAbove x m = true) :
    memRead m x = unlistedByte := by
  induction m with
  | nil => rfl
  | cons cell m ih =>
    obtain ⟨a, b⟩ := cell
    obtain ⟨hlt, habove⟩ := (memAbove_cons x a b m).1 h
    simp [memRead, hlt.ne', ih habove]

/-- A write above a lower bound keeps the bound. -/
theorem memAbove_memWrite {x y : Nat} {m : Memory} (v : Byte) (hxy : x < y)
    (h : memAbove x m = true) : memAbove x (memWrite m y v) = true := by
  induction m with
  | nil => by_cases hv : v = unlistedByte <;> simp [memWrite, hv, memAbove, hxy]
  | cons cell m ih =>
    obtain ⟨a, b⟩ := cell
    obtain ⟨hlt, habove⟩ := (memAbove_cons x a b m).1 h
    have hcons : memAbove x ((a, b) :: m) = true := h
    simp only [memWrite]
    split
    · split
      · exact hcons
      · exact (memAbove_cons _ _ _ _).2 ⟨hxy, hcons⟩
    · split
      · split
        · exact habove
        · exact (memAbove_cons _ _ _ _).2 ⟨hxy, habove⟩
      · exact (memAbove_cons _ _ _ _).2 ⟨hlt, ih habove⟩

/-- Every write keeps the canonical form. -/
theorem memWf_memWrite (m : Memory) (x : Nat) (v : Byte) (h : memWf m = true) :
    memWf (memWrite m x v) = true := by
  induction m with
  | nil => by_cases hv : v = unlistedByte <;> simp [memWrite, hv, memWf, memAbove]
  | cons cell m ih =>
    obtain ⟨a, b⟩ := cell
    obtain ⟨hb, habove, hwf⟩ := (memWf_cons a b m).1 h
    simp only [memWrite]
    split
    case isTrue hlt =>
      split
      · exact h
      case isFalse hv =>
        exact (memWf_cons _ _ _).2
          ⟨hv, (memAbove_cons _ _ _ _).2 ⟨hlt, memAbove_trans hlt.le habove⟩, h⟩
    case isFalse hge =>
      split
      case isTrue heq =>
        subst heq
        split
        · exact hwf
        case isFalse hv => exact (memWf_cons _ _ _).2 ⟨hv, habove, hwf⟩
      case isFalse hne =>
        exact (memWf_cons _ _ _).2 ⟨hb, memAbove_memWrite v (by omega) habove, ih hwf⟩

/-- A read after a write to the same address gives the byte written. -/
theorem memRead_memWrite_same (m : Memory) (x : Nat) (v : Byte) (h : memWf m = true) :
    memRead (memWrite m x v) x = v := by
  induction m with
  | nil => by_cases hv : v = unlistedByte <;> simp [memWrite, hv, memRead]
  | cons cell m ih =>
    obtain ⟨a, b⟩ := cell
    obtain ⟨hb, habove, hwf⟩ := (memWf_cons a b m).1 h
    simp only [memWrite]
    split
    case isTrue hlt =>
      split
      case isTrue hv =>
        rw [hv]
        exact memRead_of_memAbove ((memAbove_cons _ _ _ _).2 ⟨hlt, memAbove_trans hlt.le habove⟩)
      · simp [memRead]
    case isFalse hge =>
      split
      case isTrue heq =>
        subst heq
        split
        case isTrue hv => rw [hv]; exact memRead_of_memAbove habove
        · simp [memRead]
      case isFalse hne =>
        simp only [memRead, if_neg (Ne.symm hne)]
        exact ih hwf

/-- A write leaves every other address alone. -/
theorem memRead_memWrite_other (m : Memory) {x y : Nat} (v : Byte) (hne : y ≠ x) :
    memRead (memWrite m x v) y = memRead m y := by
  induction m with
  | nil => by_cases hv : v = unlistedByte <;> simp [memWrite, hv, memRead, hne.symm]
  | cons cell m ih =>
    obtain ⟨a, b⟩ := cell
    simp only [memWrite]
    split
    · split
      · rfl
      · simp [memRead, hne.symm]
    · split
      case isTrue heq =>
        subst heq
        split <;> simp [memRead, hne.symm]
      · simp only [memRead]
        split
        · rfl
        · exact ih

/-! ### The receive buffer -/

theorem writeBuf_rxBuf (s : State) (off : Nat) (v : Byte) :
    (s.writeBuf off v).rxBuf
      = if off < s.cfg.recvBufferSize then memWrite s.rxBuf off v else s.rxBuf := by
  unfold State.writeBuf; split <;> rfl

theorem writeBuf_wf (s : State) (off : Nat) (v : Byte) (h : memWf s.rxBuf = true) :
    memWf (s.writeBuf off v).rxBuf = true := by
  rw [writeBuf_rxBuf]; split
  · exact memWf_memWrite _ _ _ h
  · exact h

theorem readBuf_writeBuf_same (s : State) (off : Nat) (v : Byte) (h : memWf s.rxBuf = true)
    (hoff : off < s.cfg.recvBufferSize) : (s.writeBuf off v).readBuf off = v := by
  simp [State.readBuf, writeBuf_rxBuf, hoff, memRead_memWrite_same _ _ _ h]

theorem readBuf_writeBuf_other (s : State) {off a : Nat} (v : Byte) (hne : a ≠ off) :
    (s.writeBuf off v).readBuf a = s.readBuf a := by
  simp only [State.readBuf, writeBuf_rxBuf]; split
  · exact memRead_memWrite_other _ _ hne
  · rfl

end Sys2Proof.Machine
end

