-- ==== Sys2Proof/Laws/State.lean ====
section
/-! SUPPORT. Laws/State.lean: for each named update of the state, what it leaves in each field. Every
lemma is an equation a simp step uses instead of unfolding the record update. -/

namespace Sys2Proof.Machine

/-! ### `State.emit` -/

@[simp] theorem emit_cfg (s : State) (e : Event) : (s.emit e).cfg = s.cfg := rfl
@[simp] theorem emit_inputs (s : State) (e : Event) : (s.emit e).inputs = s.inputs := rfl
@[simp] theorem emit_now (s : State) (e : Event) : (s.emit e).now = s.now := rfl
@[simp] theorem emit_mark (s : State) (e : Event) : (s.emit e).mark = s.mark := rfl
@[simp] theorem emit_raw (s : State) (e : Event) : (s.emit e).raw = s.raw := rfl
@[simp] theorem emit_chg (s : State) (e : Event) : (s.emit e).chg = s.chg := rfl
@[simp] theorem emit_cnt (s : State) (e : Event) : (s.emit e).cnt = s.cnt := rfl
@[simp] theorem emit_stable (s : State) (e : Event) : (s.emit e).stable = s.stable := rfl
@[simp] theorem emit_txAcc (s : State) (e : Event) : (s.emit e).txAcc = s.txAcc := rfl
@[simp] theorem emit_rxState (s : State) (e : Event) : (s.emit e).rxState = s.rxState := rfl
@[simp] theorem emit_rxMark (s : State) (e : Event) : (s.emit e).rxMark = s.rxMark := rfl
@[simp] theorem emit_rxPos (s : State) (e : Event) : (s.emit e).rxPos = s.rxPos := rfl
@[simp] theorem emit_rxLen (s : State) (e : Event) : (s.emit e).rxLen = s.rxLen := rfl
@[simp] theorem emit_rxBuf (s : State) (e : Event) : (s.emit e).rxBuf = s.rxBuf := rfl
@[simp] theorem emit_rxAcc (s : State) (e : Event) : (s.emit e).rxAcc = s.rxAcc := rfl
@[simp] theorem emit_rxCk (s : State) (e : Event) : (s.emit e).rxCk = s.rxCk := rfl
@[simp] theorem emit_lastErr (s : State) (e : Event) : (s.emit e).lastErr = s.lastErr := rfl
@[simp] theorem emit_errFlags (s : State) (e : Event) : (s.emit e).errFlags = s.errFlags := rfl
@[simp] theorem emit_frameValid (s : State) (e : Event) : (s.emit e).frameValid = s.frameValid := rfl
@[simp] theorem emit_ev (s : State) (e : Event) : (s.emit e).ev = s.ev ++ [e] := rfl
@[simp] theorem emit_fault (s : State) (e : Event) : (s.emit e).fault = s.fault := rfl
@[simp] theorem emit_faultWord (s : State) (e : Event) : (s.emit e).faultWord = s.faultWord := rfl
@[simp] theorem emit_response (s : State) (e : Event) : (s.emit e).response = s.response := rfl

/-! ### `State.writeMark` -/

@[simp] theorem writeMark_cfg (s : State) (k : Nat) (t : Half) : (s.writeMark k t).cfg = s.cfg := rfl
@[simp] theorem writeMark_inputs (s : State) (k : Nat) (t : Half) : (s.writeMark k t).inputs = s.inputs := rfl
@[simp] theorem writeMark_now (s : State) (k : Nat) (t : Half) : (s.writeMark k t).now = s.now := rfl
@[simp] theorem writeMark_mark (s : State) (k : Nat) (t : Half) : (s.writeMark k t).mark = s.mark.set k t := rfl
@[simp] theorem writeMark_raw (s : State) (k : Nat) (t : Half) : (s.writeMark k t).raw = s.raw := rfl
@[simp] theorem writeMark_chg (s : State) (k : Nat) (t : Half) : (s.writeMark k t).chg = s.chg := rfl
@[simp] theorem writeMark_cnt (s : State) (k : Nat) (t : Half) : (s.writeMark k t).cnt = s.cnt := rfl
@[simp] theorem writeMark_stable (s : State) (k : Nat) (t : Half) : (s.writeMark k t).stable = s.stable := rfl
@[simp] theorem writeMark_txAcc (s : State) (k : Nat) (t : Half) : (s.writeMark k t).txAcc = s.txAcc := rfl
@[simp] theorem writeMark_rxState (s : State) (k : Nat) (t : Half) : (s.writeMark k t).rxState = s.rxState := rfl
@[simp] theorem writeMark_rxMark (s : State) (k : Nat) (t : Half) : (s.writeMark k t).rxMark = s.rxMark := rfl
@[simp] theorem writeMark_rxPos (s : State) (k : Nat) (t : Half) : (s.writeMark k t).rxPos = s.rxPos := rfl
@[simp] theorem writeMark_rxLen (s : State) (k : Nat) (t : Half) : (s.writeMark k t).rxLen = s.rxLen := rfl
@[simp] theorem writeMark_rxBuf (s : State) (k : Nat) (t : Half) : (s.writeMark k t).rxBuf = s.rxBuf := rfl
@[simp] theorem writeMark_rxAcc (s : State) (k : Nat) (t : Half) : (s.writeMark k t).rxAcc = s.rxAcc := rfl
@[simp] theorem writeMark_rxCk (s : State) (k : Nat) (t : Half) : (s.writeMark k t).rxCk = s.rxCk := rfl
@[simp] theorem writeMark_lastErr (s : State) (k : Nat) (t : Half) : (s.writeMark k t).lastErr = s.lastErr := rfl
@[simp] theorem writeMark_errFlags (s : State) (k : Nat) (t : Half) : (s.writeMark k t).errFlags = s.errFlags := rfl
@[simp] theorem writeMark_frameValid (s : State) (k : Nat) (t : Half) : (s.writeMark k t).frameValid = s.frameValid := rfl
@[simp] theorem writeMark_ev (s : State) (k : Nat) (t : Half) : (s.writeMark k t).ev = s.ev := rfl
@[simp] theorem writeMark_fault (s : State) (k : Nat) (t : Half) : (s.writeMark k t).fault = s.fault := rfl
@[simp] theorem writeMark_faultWord (s : State) (k : Nat) (t : Half) : (s.writeMark k t).faultWord = s.faultWord := rfl
@[simp] theorem writeMark_response (s : State) (k : Nat) (t : Half) : (s.writeMark k t).response = s.response := rfl

/-! ### `State.writeRaw` -/

@[simp] theorem writeRaw_cfg (s : State) (i : Nat) (v : Bool) : (s.writeRaw i v).cfg = s.cfg := rfl
@[simp] theorem writeRaw_inputs (s : State) (i : Nat) (v : Bool) : (s.writeRaw i v).inputs = s.inputs := rfl
@[simp] theorem writeRaw_now (s : State) (i : Nat) (v : Bool) : (s.writeRaw i v).now = s.now := rfl
@[simp] theorem writeRaw_mark (s : State) (i : Nat) (v : Bool) : (s.writeRaw i v).mark = s.mark := rfl
@[simp] theorem writeRaw_raw (s : State) (i : Nat) (v : Bool) : (s.writeRaw i v).raw = bitWrite s.raw i v := rfl
@[simp] theorem writeRaw_chg (s : State) (i : Nat) (v : Bool) : (s.writeRaw i v).chg = s.chg := rfl
@[simp] theorem writeRaw_cnt (s : State) (i : Nat) (v : Bool) : (s.writeRaw i v).cnt = s.cnt := rfl
@[simp] theorem writeRaw_stable (s : State) (i : Nat) (v : Bool) : (s.writeRaw i v).stable = s.stable := rfl
@[simp] theorem writeRaw_txAcc (s : State) (i : Nat) (v : Bool) : (s.writeRaw i v).txAcc = s.txAcc := rfl
@[simp] theorem writeRaw_rxState (s : State) (i : Nat) (v : Bool) : (s.writeRaw i v).rxState = s.rxState := rfl
@[simp] theorem writeRaw_rxMark (s : State) (i : Nat) (v : Bool) : (s.writeRaw i v).rxMark = s.rxMark := rfl
@[simp] theorem writeRaw_rxPos (s : State) (i : Nat) (v : Bool) : (s.writeRaw i v).rxPos = s.rxPos := rfl
@[simp] theorem writeRaw_rxLen (s : State) (i : Nat) (v : Bool) : (s.writeRaw i v).rxLen = s.rxLen := rfl
@[simp] theorem writeRaw_rxBuf (s : State) (i : Nat) (v : Bool) : (s.writeRaw i v).rxBuf = s.rxBuf := rfl
@[simp] theorem writeRaw_rxAcc (s : State) (i : Nat) (v : Bool) : (s.writeRaw i v).rxAcc = s.rxAcc := rfl
@[simp] theorem writeRaw_rxCk (s : State) (i : Nat) (v : Bool) : (s.writeRaw i v).rxCk = s.rxCk := rfl
@[simp] theorem writeRaw_lastErr (s : State) (i : Nat) (v : Bool) : (s.writeRaw i v).lastErr = s.lastErr := rfl
@[simp] theorem writeRaw_errFlags (s : State) (i : Nat) (v : Bool) : (s.writeRaw i v).errFlags = s.errFlags := rfl
@[simp] theorem writeRaw_frameValid (s : State) (i : Nat) (v : Bool) : (s.writeRaw i v).frameValid = s.frameValid := rfl
@[simp] theorem writeRaw_ev (s : State) (i : Nat) (v : Bool) : (s.writeRaw i v).ev = s.ev := rfl
@[simp] theorem writeRaw_fault (s : State) (i : Nat) (v : Bool) : (s.writeRaw i v).fault = s.fault := rfl
@[simp] theorem writeRaw_faultWord (s : State) (i : Nat) (v : Bool) : (s.writeRaw i v).faultWord = s.faultWord := rfl
@[simp] theorem writeRaw_response (s : State) (i : Nat) (v : Bool) : (s.writeRaw i v).response = s.response := rfl

/-! ### `State.writeChg` -/

@[simp] theorem writeChg_cfg (s : State) (i : Nat) (v : Bool) : (s.writeChg i v).cfg = s.cfg := rfl
@[simp] theorem writeChg_inputs (s : State) (i : Nat) (v : Bool) : (s.writeChg i v).inputs = s.inputs := rfl
@[simp] theorem writeChg_now (s : State) (i : Nat) (v : Bool) : (s.writeChg i v).now = s.now := rfl
@[simp] theorem writeChg_mark (s : State) (i : Nat) (v : Bool) : (s.writeChg i v).mark = s.mark := rfl
@[simp] theorem writeChg_raw (s : State) (i : Nat) (v : Bool) : (s.writeChg i v).raw = s.raw := rfl
@[simp] theorem writeChg_chg (s : State) (i : Nat) (v : Bool) : (s.writeChg i v).chg = bitWrite s.chg i v := rfl
@[simp] theorem writeChg_cnt (s : State) (i : Nat) (v : Bool) : (s.writeChg i v).cnt = s.cnt := rfl
@[simp] theorem writeChg_stable (s : State) (i : Nat) (v : Bool) : (s.writeChg i v).stable = s.stable := rfl
@[simp] theorem writeChg_txAcc (s : State) (i : Nat) (v : Bool) : (s.writeChg i v).txAcc = s.txAcc := rfl
@[simp] theorem writeChg_rxState (s : State) (i : Nat) (v : Bool) : (s.writeChg i v).rxState = s.rxState := rfl
@[simp] theorem writeChg_rxMark (s : State) (i : Nat) (v : Bool) : (s.writeChg i v).rxMark = s.rxMark := rfl
@[simp] theorem writeChg_rxPos (s : State) (i : Nat) (v : Bool) : (s.writeChg i v).rxPos = s.rxPos := rfl
@[simp] theorem writeChg_rxLen (s : State) (i : Nat) (v : Bool) : (s.writeChg i v).rxLen = s.rxLen := rfl
@[simp] theorem writeChg_rxBuf (s : State) (i : Nat) (v : Bool) : (s.writeChg i v).rxBuf = s.rxBuf := rfl
@[simp] theorem writeChg_rxAcc (s : State) (i : Nat) (v : Bool) : (s.writeChg i v).rxAcc = s.rxAcc := rfl
@[simp] theorem writeChg_rxCk (s : State) (i : Nat) (v : Bool) : (s.writeChg i v).rxCk = s.rxCk := rfl
@[simp] theorem writeChg_lastErr (s : State) (i : Nat) (v : Bool) : (s.writeChg i v).lastErr = s.lastErr := rfl
@[simp] theorem writeChg_errFlags (s : State) (i : Nat) (v : Bool) : (s.writeChg i v).errFlags = s.errFlags := rfl
@[simp] theorem writeChg_frameValid (s : State) (i : Nat) (v : Bool) : (s.writeChg i v).frameValid = s.frameValid := rfl
@[simp] theorem writeChg_ev (s : State) (i : Nat) (v : Bool) : (s.writeChg i v).ev = s.ev := rfl
@[simp] theorem writeChg_fault (s : State) (i : Nat) (v : Bool) : (s.writeChg i v).fault = s.fault := rfl
@[simp] theorem writeChg_faultWord (s : State) (i : Nat) (v : Bool) : (s.writeChg i v).faultWord = s.faultWord := rfl
@[simp] theorem writeChg_response (s : State) (i : Nat) (v : Bool) : (s.writeChg i v).response = s.response := rfl

/-! ### `State.writeCnt` -/

@[simp] theorem writeCnt_cfg (s : State) (i : Nat) (n : Nibble) : (s.writeCnt i n).cfg = s.cfg := rfl
@[simp] theorem writeCnt_inputs (s : State) (i : Nat) (n : Nibble) : (s.writeCnt i n).inputs = s.inputs := rfl
@[simp] theorem writeCnt_now (s : State) (i : Nat) (n : Nibble) : (s.writeCnt i n).now = s.now := rfl
@[simp] theorem writeCnt_mark (s : State) (i : Nat) (n : Nibble) : (s.writeCnt i n).mark = s.mark := rfl
@[simp] theorem writeCnt_raw (s : State) (i : Nat) (n : Nibble) : (s.writeCnt i n).raw = s.raw := rfl
@[simp] theorem writeCnt_chg (s : State) (i : Nat) (n : Nibble) : (s.writeCnt i n).chg = s.chg := rfl
@[simp] theorem writeCnt_cnt (s : State) (i : Nat) (n : Nibble) : (s.writeCnt i n).cnt = s.cnt.set i n := rfl
@[simp] theorem writeCnt_stable (s : State) (i : Nat) (n : Nibble) : (s.writeCnt i n).stable = s.stable := rfl
@[simp] theorem writeCnt_txAcc (s : State) (i : Nat) (n : Nibble) : (s.writeCnt i n).txAcc = s.txAcc := rfl
@[simp] theorem writeCnt_rxState (s : State) (i : Nat) (n : Nibble) : (s.writeCnt i n).rxState = s.rxState := rfl
@[simp] theorem writeCnt_rxMark (s : State) (i : Nat) (n : Nibble) : (s.writeCnt i n).rxMark = s.rxMark := rfl
@[simp] theorem writeCnt_rxPos (s : State) (i : Nat) (n : Nibble) : (s.writeCnt i n).rxPos = s.rxPos := rfl
@[simp] theorem writeCnt_rxLen (s : State) (i : Nat) (n : Nibble) : (s.writeCnt i n).rxLen = s.rxLen := rfl
@[simp] theorem writeCnt_rxBuf (s : State) (i : Nat) (n : Nibble) : (s.writeCnt i n).rxBuf = s.rxBuf := rfl
@[simp] theorem writeCnt_rxAcc (s : State) (i : Nat) (n : Nibble) : (s.writeCnt i n).rxAcc = s.rxAcc := rfl
@[simp] theorem writeCnt_rxCk (s : State) (i : Nat) (n : Nibble) : (s.writeCnt i n).rxCk = s.rxCk := rfl
@[simp] theorem writeCnt_lastErr (s : State) (i : Nat) (n : Nibble) : (s.writeCnt i n).lastErr = s.lastErr := rfl
@[simp] theorem writeCnt_errFlags (s : State) (i : Nat) (n : Nibble) : (s.writeCnt i n).errFlags = s.errFlags := rfl
@[simp] theorem writeCnt_frameValid (s : State) (i : Nat) (n : Nibble) : (s.writeCnt i n).frameValid = s.frameValid := rfl
@[simp] theorem writeCnt_ev (s : State) (i : Nat) (n : Nibble) : (s.writeCnt i n).ev = s.ev := rfl
@[simp] theorem writeCnt_fault (s : State) (i : Nat) (n : Nibble) : (s.writeCnt i n).fault = s.fault := rfl
@[simp] theorem writeCnt_faultWord (s : State) (i : Nat) (n : Nibble) : (s.writeCnt i n).faultWord = s.faultWord := rfl
@[simp] theorem writeCnt_response (s : State) (i : Nat) (n : Nibble) : (s.writeCnt i n).response = s.response := rfl

/-! ### `State.writeStable` -/

@[simp] theorem writeStable_cfg (s : State) (i : Nat) (v : Bool) : (s.writeStable i v).cfg = s.cfg := rfl
@[simp] theorem writeStable_inputs (s : State) (i : Nat) (v : Bool) : (s.writeStable i v).inputs = s.inputs := rfl
@[simp] theorem writeStable_now (s : State) (i : Nat) (v : Bool) : (s.writeStable i v).now = s.now := rfl
@[simp] theorem writeStable_mark (s : State) (i : Nat) (v : Bool) : (s.writeStable i v).mark = s.mark := rfl
@[simp] theorem writeStable_raw (s : State) (i : Nat) (v : Bool) : (s.writeStable i v).raw = s.raw := rfl
@[simp] theorem writeStable_chg (s : State) (i : Nat) (v : Bool) : (s.writeStable i v).chg = s.chg := rfl
@[simp] theorem writeStable_cnt (s : State) (i : Nat) (v : Bool) : (s.writeStable i v).cnt = s.cnt := rfl
@[simp] theorem writeStable_stable (s : State) (i : Nat) (v : Bool) : (s.writeStable i v).stable = bitWrite s.stable i v := rfl
@[simp] theorem writeStable_txAcc (s : State) (i : Nat) (v : Bool) : (s.writeStable i v).txAcc = s.txAcc := rfl
@[simp] theorem writeStable_rxState (s : State) (i : Nat) (v : Bool) : (s.writeStable i v).rxState = s.rxState := rfl
@[simp] theorem writeStable_rxMark (s : State) (i : Nat) (v : Bool) : (s.writeStable i v).rxMark = s.rxMark := rfl
@[simp] theorem writeStable_rxPos (s : State) (i : Nat) (v : Bool) : (s.writeStable i v).rxPos = s.rxPos := rfl
@[simp] theorem writeStable_rxLen (s : State) (i : Nat) (v : Bool) : (s.writeStable i v).rxLen = s.rxLen := rfl
@[simp] theorem writeStable_rxBuf (s : State) (i : Nat) (v : Bool) : (s.writeStable i v).rxBuf = s.rxBuf := rfl
@[simp] theorem writeStable_rxAcc (s : State) (i : Nat) (v : Bool) : (s.writeStable i v).rxAcc = s.rxAcc := rfl
@[simp] theorem writeStable_rxCk (s : State) (i : Nat) (v : Bool) : (s.writeStable i v).rxCk = s.rxCk := rfl
@[simp] theorem writeStable_lastErr (s : State) (i : Nat) (v : Bool) : (s.writeStable i v).lastErr = s.lastErr := rfl
@[simp] theorem writeStable_errFlags (s : State) (i : Nat) (v : Bool) : (s.writeStable i v).errFlags = s.errFlags := rfl
@[simp] theorem writeStable_frameValid (s : State) (i : Nat) (v : Bool) : (s.writeStable i v).frameValid = s.frameValid := rfl
@[simp] theorem writeStable_ev (s : State) (i : Nat) (v : Bool) : (s.writeStable i v).ev = s.ev := rfl
@[simp] theorem writeStable_fault (s : State) (i : Nat) (v : Bool) : (s.writeStable i v).fault = s.fault := rfl
@[simp] theorem writeStable_faultWord (s : State) (i : Nat) (v : Bool) : (s.writeStable i v).faultWord = s.faultWord := rfl
@[simp] theorem writeStable_response (s : State) (i : Nat) (v : Bool) : (s.writeStable i v).response = s.response := rfl

/-! ### `State.report` -/

@[simp] theorem report_cfg (s : State) (code : ErrCode) : (s.report code).cfg = s.cfg := rfl
@[simp] theorem report_inputs (s : State) (code : ErrCode) : (s.report code).inputs = s.inputs := rfl
@[simp] theorem report_now (s : State) (code : ErrCode) : (s.report code).now = s.now := rfl
@[simp] theorem report_mark (s : State) (code : ErrCode) : (s.report code).mark = s.mark := rfl
@[simp] theorem report_raw (s : State) (code : ErrCode) : (s.report code).raw = s.raw := rfl
@[simp] theorem report_chg (s : State) (code : ErrCode) : (s.report code).chg = s.chg := rfl
@[simp] theorem report_cnt (s : State) (code : ErrCode) : (s.report code).cnt = s.cnt := rfl
@[simp] theorem report_stable (s : State) (code : ErrCode) : (s.report code).stable = s.stable := rfl
@[simp] theorem report_txAcc (s : State) (code : ErrCode) : (s.report code).txAcc = s.txAcc := rfl
@[simp] theorem report_rxState (s : State) (code : ErrCode) : (s.report code).rxState = s.rxState := rfl
@[simp] theorem report_rxMark (s : State) (code : ErrCode) : (s.report code).rxMark = s.rxMark := rfl
@[simp] theorem report_rxPos (s : State) (code : ErrCode) : (s.report code).rxPos = s.rxPos := rfl
@[simp] theorem report_rxLen (s : State) (code : ErrCode) : (s.report code).rxLen = s.rxLen := rfl
@[simp] theorem report_rxBuf (s : State) (code : ErrCode) : (s.report code).rxBuf = s.rxBuf := rfl
@[simp] theorem report_rxAcc (s : State) (code : ErrCode) : (s.report code).rxAcc = s.rxAcc := rfl
@[simp] theorem report_rxCk (s : State) (code : ErrCode) : (s.report code).rxCk = s.rxCk := rfl
@[simp] theorem report_lastErr (s : State) (code : ErrCode) : (s.report code).lastErr = code := rfl
@[simp] theorem report_errFlags (s : State) (code : ErrCode) : (s.report code).errFlags = s.errFlags ||| errFlag code := rfl
@[simp] theorem report_frameValid (s : State) (code : ErrCode) : (s.report code).frameValid = s.frameValid := rfl
@[simp] theorem report_ev (s : State) (code : ErrCode) : (s.report code).ev = s.ev ++ [.rxError code] := rfl
@[simp] theorem report_fault (s : State) (code : ErrCode) : (s.report code).fault = s.fault := rfl
@[simp] theorem report_faultWord (s : State) (code : ErrCode) : (s.report code).faultWord = s.faultWord := rfl
@[simp] theorem report_response (s : State) (code : ErrCode) : (s.report code).response = s.response := rfl

/-! ### `State.toIdle` -/

@[simp] theorem toIdle_cfg (s : State) : s.toIdle.cfg = s.cfg := rfl
@[simp] theorem toIdle_inputs (s : State) : s.toIdle.inputs = s.inputs := rfl
@[simp] theorem toIdle_now (s : State) : s.toIdle.now = s.now := rfl
@[simp] theorem toIdle_mark (s : State) : s.toIdle.mark = s.mark := rfl
@[simp] theorem toIdle_raw (s : State) : s.toIdle.raw = s.raw := rfl
@[simp] theorem toIdle_chg (s : State) : s.toIdle.chg = s.chg := rfl
@[simp] theorem toIdle_cnt (s : State) : s.toIdle.cnt = s.cnt := rfl
@[simp] theorem toIdle_stable (s : State) : s.toIdle.stable = s.stable := rfl
@[simp] theorem toIdle_txAcc (s : State) : s.toIdle.txAcc = s.txAcc := rfl
@[simp] theorem toIdle_rxState (s : State) : s.toIdle.rxState = .idle := rfl
@[simp] theorem toIdle_rxMark (s : State) : s.toIdle.rxMark = s.rxMark := rfl
@[simp] theorem toIdle_rxPos (s : State) : s.toIdle.rxPos = 0 := rfl
@[simp] theorem toIdle_rxLen (s : State) : s.toIdle.rxLen = s.rxLen := rfl
@[simp] theorem toIdle_rxBuf (s : State) : s.toIdle.rxBuf = s.rxBuf := rfl
@[simp] theorem toIdle_rxAcc (s : State) : s.toIdle.rxAcc = s.rxAcc := rfl
@[simp] theorem toIdle_rxCk (s : State) : s.toIdle.rxCk = s.rxCk := rfl
@[simp] theorem toIdle_lastErr (s : State) : s.toIdle.lastErr = s.lastErr := rfl
@[simp] theorem toIdle_errFlags (s : State) : s.toIdle.errFlags = s.errFlags := rfl
@[simp] theorem toIdle_frameValid (s : State) : s.toIdle.frameValid = s.frameValid := rfl
@[simp] theorem toIdle_ev (s : State) : s.toIdle.ev = s.ev := rfl
@[simp] theorem toIdle_fault (s : State) : s.toIdle.fault = s.fault := rfl
@[simp] theorem toIdle_faultWord (s : State) : s.toIdle.faultWord = s.faultWord := rfl
@[simp] theorem toIdle_response (s : State) : s.toIdle.response = s.response := rfl

/-! ### `State.writeBuf` (only RXBUF can change) -/

@[simp] theorem writeBuf_cfg (s : State) (off : Nat) (v : Byte) : (s.writeBuf off v).cfg = s.cfg := by
  unfold State.writeBuf; split <;> rfl
@[simp] theorem writeBuf_inputs (s : State) (off : Nat) (v : Byte) : (s.writeBuf off v).inputs = s.inputs := by
  unfold State.writeBuf; split <;> rfl
@[simp] theorem writeBuf_now (s : State) (off : Nat) (v : Byte) : (s.writeBuf off v).now = s.now := by
  unfold State.writeBuf; split <;> rfl
@[simp] theorem writeBuf_mark (s : State) (off : Nat) (v : Byte) : (s.writeBuf off v).mark = s.mark := by
  unfold State.writeBuf; split <;> rfl
@[simp] theorem writeBuf_raw (s : State) (off : Nat) (v : Byte) : (s.writeBuf off v).raw = s.raw := by
  unfold State.writeBuf; split <;> rfl
@[simp] theorem writeBuf_chg (s : State) (off : Nat) (v : Byte) : (s.writeBuf off v).chg = s.chg := by
  unfold State.writeBuf; split <;> rfl
@[simp] theorem writeBuf_cnt (s : State) (off : Nat) (v : Byte) : (s.writeBuf off v).cnt = s.cnt := by
  unfold State.writeBuf; split <;> rfl
@[simp] theorem writeBuf_stable (s : State) (off : Nat) (v : Byte) : (s.writeBuf off v).stable = s.stable := by
  unfold State.writeBuf; split <;> rfl
@[simp] theorem writeBuf_txAcc (s : State) (off : Nat) (v : Byte) : (s.writeBuf off v).txAcc = s.txAcc := by
  unfold State.writeBuf; split <;> rfl
@[simp] theorem writeBuf_rxState (s : State) (off : Nat) (v : Byte) : (s.writeBuf off v).rxState = s.rxState := by
  unfold State.writeBuf; split <;> rfl
@[simp] theorem writeBuf_rxMark (s : State) (off : Nat) (v : Byte) : (s.writeBuf off v).rxMark = s.rxMark := by
  unfold State.writeBuf; split <;> rfl
@[simp] theorem writeBuf_rxPos (s : State) (off : Nat) (v : Byte) : (s.writeBuf off v).rxPos = s.rxPos := by
  unfold State.writeBuf; split <;> rfl
@[simp] theorem writeBuf_rxLen (s : State) (off : Nat) (v : Byte) : (s.writeBuf off v).rxLen = s.rxLen := by
  unfold State.writeBuf; split <;> rfl
@[simp] theorem writeBuf_rxAcc (s : State) (off : Nat) (v : Byte) : (s.writeBuf off v).rxAcc = s.rxAcc := by
  unfold State.writeBuf; split <;> rfl
@[simp] theorem writeBuf_rxCk (s : State) (off : Nat) (v : Byte) : (s.writeBuf off v).rxCk = s.rxCk := by
  unfold State.writeBuf; split <;> rfl
@[simp] theorem writeBuf_lastErr (s : State) (off : Nat) (v : Byte) : (s.writeBuf off v).lastErr = s.lastErr := by
  unfold State.writeBuf; split <;> rfl
@[simp] theorem writeBuf_errFlags (s : State) (off : Nat) (v : Byte) : (s.writeBuf off v).errFlags = s.errFlags := by
  unfold State.writeBuf; split <;> rfl
@[simp] theorem writeBuf_frameValid (s : State) (off : Nat) (v : Byte) : (s.writeBuf off v).frameValid = s.frameValid := by
  unfold State.writeBuf; split <;> rfl
@[simp] theorem writeBuf_ev (s : State) (off : Nat) (v : Byte) : (s.writeBuf off v).ev = s.ev := by
  unfold State.writeBuf; split <;> rfl
@[simp] theorem writeBuf_fault (s : State) (off : Nat) (v : Byte) : (s.writeBuf off v).fault = s.fault := by
  unfold State.writeBuf; split <;> rfl
@[simp] theorem writeBuf_faultWord (s : State) (off : Nat) (v : Byte) : (s.writeBuf off v).faultWord = s.faultWord := by
  unfold State.writeBuf; split <;> rfl
@[simp] theorem writeBuf_response (s : State) (off : Nat) (v : Byte) : (s.writeBuf off v).response = s.response := by
  unfold State.writeBuf; split <;> rfl

end Sys2Proof.Machine
end

