-- ==== Sys2Proof/Laws/Ops.lean ====
section
/-! SUPPORT. Laws/Ops.lean: for each shared operation, everything it can answer. -/

namespace Sys2Proof.Machine

/-- A completed command answers the state with its response (10_state.md R43). -/
theorem respond_next {v : Half} {s t : State} :
    respond v s = .next t ↔ t = { s with response := some v } := by
  simp [respond, eq_comm]

/-- Fault entry writes FAULT and FAULT_WORD and withholds the response (60_exceptions.md R251). -/
theorem takeFault_next {code : FaultCode} {cmd : Word} {s t : State} :
    takeFault code cmd s = .next t
      ↔ t = { s with fault := some code, faultWord := cmd, response := none } := by
  simp [takeFault, eq_comm]

/-- A reset answers the reset state of its configuration (70_reset_and_hazards.md R280). -/
theorem leaveFault_next {c : Config} {s t : State} :
    leaveFault c s = .next t ↔ t = { State.resetWith c with inputs := s.inputs } := by
  simp [leaveFault, eq_comm]

/-- An index operand in range goes on; one out of range faults INDEX_RANGE (60_exceptions.md R250). -/
theorem requireIndex_next {ok : Bool} {i : Instr} {s t : State} {k : State → Result} :
    requireIndex ok i s k = .next t
      ↔ ok = true ∧ k s = .next t
        ∨ ok = false ∧ t = { s with fault := some .indexRange, faultWord := encode i, response := none } := by
  cases ok <;> simp [requireIndex, takeFault, eq_comm]

theorem withSlot_inRange {slot : Byte} {i : Instr} {s : State} {k : State → Result}
    (h : slot.toNat < s.cfg.timerSlots) : withSlot slot i s k = k s := by
  simp [withSlot, requireIndex, slotInRange, h]

theorem withSlot_outOfRange {slot : Byte} {i : Instr} {s : State} {k : State → Result}
    (h : s.cfg.timerSlots ≤ slot.toNat) :
    withSlot slot i s k = takeFault .indexRange (encode i) s := by
  simp [withSlot, requireIndex, slotInRange, Nat.not_lt.2 h]

theorem withByteIndex_inRange {j : Half} {i : Instr} {s : State} {k : State → Result}
    (h : j.toNat < byteCount s.cfg) : withByteIndex j i s k = k s := by
  simp [withByteIndex, requireIndex, byteIndexInRange, h]

theorem withByteIndex_outOfRange {j : Half} {i : Instr} {s : State} {k : State → Result}
    (h : byteCount s.cfg ≤ j.toNat) :
    withByteIndex j i s k = takeFault .indexRange (encode i) s := by
  simp [withByteIndex, requireIndex, byteIndexInRange, Nat.not_lt.2 h]

theorem withOffset_inRange {off : Half} {i : Instr} {s : State} {k : State → Result}
    (h : off.toNat < s.cfg.recvBufferSize) : withOffset off i s k = k s := by
  simp [withOffset, requireIndex, offsetInRange, h]

theorem withOffset_outOfRange {off : Half} {i : Instr} {s : State} {k : State → Result}
    (h : s.cfg.recvBufferSize ≤ off.toNat) :
    withOffset off i s k = takeFault .indexRange (encode i) s := by
  simp [withOffset, requireIndex, offsetInRange, Nat.not_lt.2 h]

/-- Every result is a next state: the two other outcomes have no reason the operations can give. -/
theorem respond_isNext (v : Half) (s : State) : ∃ t, respond v s = .next t := ⟨_, rfl⟩

theorem takeFault_isNext (code : FaultCode) (cmd : Word) (s : State) :
    ∃ t, takeFault code cmd s = .next t := ⟨_, rfl⟩

/-! ### Reads after the debouncer's writes -/

theorem readRaw_writeRaw (s : State) (i k : Nat) (v : Bool) :
    (s.writeRaw i v).readRaw k = if k = i ∧ i / 8 < s.raw.length then v else s.readRaw k :=
  bitRead_bitWrite s.raw i k v

theorem readChg_writeChg (s : State) (i k : Nat) (v : Bool) :
    (s.writeChg i v).readChg k = if k = i ∧ i / 8 < s.chg.length then v else s.readChg k :=
  bitRead_bitWrite s.chg i k v

theorem readStable_writeStable (s : State) (i k : Nat) (v : Bool) :
    (s.writeStable i v).readStable k = if k = i ∧ i / 8 < s.stable.length then v else s.readStable k :=
  bitRead_bitWrite s.stable i k v

theorem readCnt_writeCnt (s : State) (i k : Nat) (n : Nibble) :
    (s.writeCnt i n).readCnt k = if k = i ∧ i < s.cnt.length then n else s.readCnt k := by
  simp only [State.readCnt, State.writeCnt, List.getD_eq_getElem?_getD, List.getElem?_set]
  by_cases hk : i = k
  · subst hk
    by_cases hlt : i < s.cnt.length <;> simp [hlt]
  · have hk' : k ≠ i := fun h => hk h.symm
    simp [hk, hk']

theorem readMark_writeMark (s : State) (k l : Nat) (v : Half) :
    (s.writeMark k v).readMark l = if l = k ∧ k < s.mark.length then v else s.readMark l := by
  simp only [State.readMark, State.writeMark, List.getD_eq_getElem?_getD, List.getElem?_set]
  by_cases hk : k = l
  · subst hk
    by_cases hlt : k < s.mark.length <;> simp [hlt]
  · have hk' : l ≠ k := fun h => hk h.symm
    simp [hk, hk']

end Sys2Proof.Machine
end

