-- ==== Sys2Proof/Laws/Debouncer.lean ====
section
/-! SUPPORT. Laws/Debouncer.lean: what the debouncer's loops do to each input (41_debouncer.md R120 to
R122, R124). -/

namespace Sys2Proof.Machine

/-! ### DB_SAMPLE -/

/-- A sample changes RAW, CHG and CNT alone (41_debouncer.md R121, "Flags written"). -/
theorem sampleBit_frame (j : Nat) (v : Byte) (s : State) (k : Nat) :
    sampleBit j v s k = { s with
      raw := (sampleBit j v s k).raw, chg := (sampleBit j v s k).chg, cnt := (sampleBit j v s k).cnt } := by
  simp only [sampleBit]; split <;> rfl

/-- Bit k of a sample byte v at byte index j changes input i: i is input 8j+k of the block and its raw
value differs from the sample's (41_debouncer.md R121). -/
def sampleHits (s : State) (j : Nat) (v : Byte) (m i : Nat) : Prop :=
  8 * j ≤ i ∧ i < 8 * j + m ∧ i < s.cfg.inputCount ∧ v.getLsbD (i - 8 * j) ≠ s.readRaw i

/-- The loop of DB_SAMPLE over its first m bits: everything it does. -/
theorem sampleLoop_spec (j : Nat) (v : Byte) (s : State) (hs : s.Shaped) (m : Nat) :
    let t := (List.range m).foldl (sampleBit j v) s
    t = { s with raw := t.raw, chg := t.chg, cnt := t.cnt }
      ∧ t.raw.length = s.raw.length ∧ t.chg.length = s.chg.length ∧ t.cnt.length = s.cnt.length
      ∧ ∀ i, (sampleHits s j v m i →
            t.readRaw i = v.getLsbD (i - 8 * j) ∧ t.readChg i = true
              ∧ t.readCnt i = settleCount s.cfg (v.getLsbD (i - 8 * j)))
          ∧ (¬ sampleHits s j v m i →
            t.readRaw i = s.readRaw i ∧ t.readChg i = s.readChg i ∧ t.readCnt i = s.readCnt i) := by
  induction m with
  | zero =>
    refine ⟨rfl, rfl, rfl, rfl, fun i => ⟨fun h => ?_, fun _ => ⟨rfl, rfl, rfl⟩⟩⟩
    obtain ⟨h1, h2, -⟩ := h
    omega
  | succ m ih =>
    rw [List.range_succ, List.foldl_append, List.foldl_cons, List.foldl_nil]
    generalize (List.range m).foldl (sampleBit j v) s = t at ih
    obtain ⟨hframe, hraw, hchg, hcnt, hread⟩ := ih
    obtain ⟨-, hsraw, hschg, hscnt, -⟩ := hs
    have hcfg : t.cfg = s.cfg := by rw [hframe]
    have hold : ¬ sampleHits s j v m (8 * j + m) := fun h => by have := h.2.1; omega
    have hsame : t.readRaw (8 * j + m) = s.readRaw (8 * j + m) := ((hread _).2 hold).1
    have hsub : 8 * j + m - 8 * j = m := by omega
    by_cases hcond : (decide (8 * j + m < t.cfg.inputCount) && v.getLsbD m != t.readRaw (8 * j + m)) = true
    · have hbody : sampleBit j v t m = ((t.writeRaw (8 * j + m) (v.getLsbD m)).writeChg (8 * j + m) true).writeCnt
          (8 * j + m) (settleCount t.cfg (v.getLsbD m)) := if_pos hcond
      simp only [Bool.and_eq_true, decide_eq_true_eq, bne_iff_ne, ne_eq, hcfg, hsame] at hcond
      obtain ⟨hN, hne⟩ := hcond
      have hbyte : (8 * j + m) / 8 < byteCount s.cfg := by unfold byteCount; omega
      refine ⟨?_, ?_, ?_, ?_, fun i => ?_⟩
      · rw [hbody, hframe]; rfl
      · rw [hbody]; simpa using hraw
      · rw [hbody]; simpa using hchg
      · rw [hbody]; simpa using hcnt
      · have hr : (sampleBit j v t m).readRaw i
            = if i = 8 * j + m ∧ (8 * j + m) / 8 < t.raw.length then v.getLsbD m else t.readRaw i := by
          rw [hbody, ← readRaw_writeRaw]; rfl
        have hc : (sampleBit j v t m).readChg i
            = if i = 8 * j + m ∧ (8 * j + m) / 8 < t.chg.length then true else t.readChg i := by
          rw [hbody]; exact readChg_writeChg (t.writeRaw _ _) _ _ _
        have hn : (sampleBit j v t m).readCnt i
            = if i = 8 * j + m ∧ 8 * j + m < t.cnt.length then settleCount t.cfg (v.getLsbD m)
              else t.readCnt i := by
          rw [hbody]; exact readCnt_writeCnt ((t.writeRaw _ _).writeChg _ _) _ _ _
        rw [hr, hc, hn, hraw, hchg, hcnt, hsraw, hschg, hscnt, hcfg]
        by_cases hi : i = 8 * j + m
        · subst hi
          refine ⟨fun _ => ?_, fun hno => ?_⟩
          · rw [if_pos ⟨rfl, hbyte⟩, if_pos ⟨rfl, hbyte⟩, if_pos ⟨rfl, hN⟩, hsub]
            exact ⟨rfl, rfl, rfl⟩
          · exact absurd ⟨by omega, by omega, hN, by rw [hsub]; exact hne⟩ hno
        · simp only [hi, false_and, if_false]
          have hiff : sampleHits s j v (m + 1) i ↔ sampleHits s j v m i := by
            unfold sampleHits
            constructor
            · rintro ⟨a, b, c⟩; exact ⟨a, by omega, c⟩
            · rintro ⟨a, b, c⟩; exact ⟨a, by omega, c⟩
          rw [hiff]
          exact hread i
    · have hbody : sampleBit j v t m = t := if_neg hcond
      rw [hbody]
      refine ⟨hframe, hraw, hchg, hcnt, fun i => ?_⟩
      simp only [Bool.and_eq_true, decide_eq_true_eq, bne_iff_ne, ne_eq, hcfg, hsame, not_and, not_not] at hcond
      have hiff : sampleHits s j v (m + 1) i ↔ sampleHits s j v m i := by
        unfold sampleHits
        constructor
        · rintro ⟨a, b, c, d⟩
          refine ⟨a, ?_, c, d⟩
          by_contra hge
          have hi : i = 8 * j + m := by omega
          subst hi
          rw [hsub] at d
          exact d (hcond c)
        · rintro ⟨a, b, c⟩; exact ⟨a, by omega, c⟩
      rw [hiff]
      exact hread i

/-- DB_SAMPLE's loop: everything it does (41_debouncer.md R121). -/
theorem sampleByte_spec (j : Nat) (v : Byte) (s : State) (hs : s.Shaped) :
    sampleByte j v s = { s with
        raw := (sampleByte j v s).raw, chg := (sampleByte j v s).chg, cnt := (sampleByte j v s).cnt }
      ∧ (sampleByte j v s).raw.length = s.raw.length ∧ (sampleByte j v s).chg.length = s.chg.length
      ∧ (sampleByte j v s).cnt.length = s.cnt.length
      ∧ ∀ i, (sampleHits s j v 8 i →
            (sampleByte j v s).readRaw i = v.getLsbD (i - 8 * j) ∧ (sampleByte j v s).readChg i = true
              ∧ (sampleByte j v s).readCnt i = settleCount s.cfg (v.getLsbD (i - 8 * j)))
          ∧ (¬ sampleHits s j v 8 i →
            (sampleByte j v s).readRaw i = s.readRaw i ∧ (sampleByte j v s).readChg i = s.readChg i
              ∧ (sampleByte j v s).readCnt i = s.readCnt i) :=
  sampleLoop_spec j v s hs 8

/-! ### DB_TICK -/

/-- Input i is changing: it exists and its CHG bit is set. -/
def changing (s : State) (i : Nat) : Bool := decide (i < s.cfg.inputCount) && s.readChg i

/-- The next tick ends the countdown of input i (41_debouncer.md R122). -/
def expiring (s : State) (i : Nat) : Bool := changing s i && decide (s.readCnt i - 1 = 0)

theorem expiring_changing {s : State} {i : Nat} (h : expiring s i = true) : changing s i = true := by
  simp only [expiring, Bool.and_eq_true] at h; exact h.1

/-- Reads of an input that has expired (41_debouncer.md R122). -/
theorem expireInput_reads (s : State) (hs : s.Shaped) {n : Nat} (hn : n < s.cfg.inputCount) (i : Nat) :
    (expireInput n s).readCnt i = s.readCnt i
      ∧ (expireInput n s).readChg i = (if i = n then false else s.readChg i)
      ∧ (expireInput n s).readStable i = (if i = n then s.readRaw n else s.readStable i) := by
  obtain ⟨-, -, hchg, -, hst⟩ := hs
  have hbyte : n / 8 < byteCount s.cfg := by unfold byteCount; omega
  have h1 : (expireInput n s).readChg i = (s.writeChg n false).readChg i := rfl
  have h2 : (expireInput n s).readStable i = ((s.writeChg n false).writeStable n (s.readRaw n)).readStable i := rfl
  refine ⟨rfl, ?_, ?_⟩
  · rw [h1, readChg_writeChg, hchg]; simp only [hbyte, and_true]
  · rw [h2, readStable_writeStable, writeChg_stable, hst]; simp only [hbyte, and_true]; rfl

/-- The body of DB_TICK's inner loop: everything it does. -/
theorem tickBit_spec (j k : Nat) (s : State) (mask : Byte) (hs : s.Shaped) :
    let r := tickBit j (s, mask) k
    let n := 8 * j + k
    r.1 = { s with chg := r.1.chg, cnt := r.1.cnt, stable := r.1.stable, ev := r.1.ev }
      ∧ r.1.Shaped
      ∧ r.1.ev = s.ev ++ (if expiring s n then [.dbChange n (s.readRaw n)] else [])
      ∧ r.2 = (if expiring s n then mask ||| (1#8 <<< k) else mask)
      ∧ ∀ i, r.1.readCnt i = (if i = n ∧ changing s n = true then s.readCnt i - 1 else s.readCnt i)
          ∧ r.1.readChg i = (if i = n ∧ expiring s n = true then false else s.readChg i)
          ∧ r.1.readStable i = (if i = n ∧ expiring s n = true then s.readRaw n else s.readStable i) := by
  have hch : (decide (8 * j + k < s.cfg.inputCount) && s.readChg (8 * j + k)) = changing s (8 * j + k) := rfl
  by_cases hc : changing s (8 * j + k) = true
  · have hN : 8 * j + k < s.cfg.inputCount := by
      simp only [changing, Bool.and_eq_true, decide_eq_true_eq] at hc; exact hc.1
    generalize hw : s.writeCnt (8 * j + k) (s.readCnt (8 * j + k) - 1) = w
    have hws : w.Shaped := by rw [← hw]; simpa [State.Shaped] using hs
    have hwcfg : w.cfg = s.cfg := by rw [← hw]; rfl
    have hwcnt : ∀ i, w.readCnt i = if i = 8 * j + k then s.readCnt i - 1 else s.readCnt i := fun i => by
      rw [← hw, readCnt_writeCnt, hs.2.2.2.1]
      by_cases hi : i = 8 * j + k
      · subst hi; simp [hN]
      · simp [hi]
    have hwchg : ∀ i, w.readChg i = s.readChg i := fun i => by rw [← hw]; rfl
    have hwst : ∀ i, w.readStable i = s.readStable i := fun i => by rw [← hw]; rfl
    have hwraw : ∀ i, w.readRaw i = s.readRaw i := fun i => by rw [← hw]; rfl
    by_cases he : s.readCnt (8 * j + k) - 1 = 0
    · have hexp : expiring s (8 * j + k) = true := by
        unfold expiring; rw [hc, decide_eq_true he]; rfl
      have hbody : tickBit j (s, mask) k = (expireInput (8 * j + k) w, mask ||| (1#8 <<< k)) := by
        simp only [tickBit]
        rw [if_pos (by rw [hch]; exact hc), hw, if_pos (by rw [hwcnt, if_pos rfl]; exact he)]
      simp only [hbody, hexp, hc, and_true, if_true]
      refine ⟨by rw [← hw]; rfl, by simpa [State.Shaped, expireInput] using hws, ?_, trivial, fun i => ?_⟩
      · rw [← hw]; rfl
      · obtain ⟨h1, h2, h3⟩ := expireInput_reads w hws (n := 8 * j + k) (by rw [hwcfg]; exact hN) i
        rw [h1, h2, h3, hwcnt, hwchg, hwst, hwraw]
        exact ⟨rfl, rfl, rfl⟩
    · have hexp : expiring s (8 * j + k) = false := by
        unfold expiring; rw [decide_eq_false he, Bool.and_false]
      have hbody : tickBit j (s, mask) k = (w, mask) := by
        simp only [tickBit]
        rw [if_pos (by rw [hch]; exact hc), hw, if_neg (by rw [hwcnt, if_pos rfl]; exact he)]
      simp only [hbody, hexp, hc, and_true, and_false, if_false, Bool.false_eq_true, List.append_nil]
      refine ⟨by rw [← hw]; rfl, hws, by rw [← hw]; rfl, trivial, fun i => ⟨hwcnt i, hwchg i, hwst i⟩⟩
  · have hexp : expiring s (8 * j + k) = false := by
      cases h : expiring s (8 * j + k) with
      | false => rfl
      | true => exact absurd (expiring_changing h) hc
    have hbody : tickBit j (s, mask) k = (s, mask) := by
      simp only [tickBit]
      rw [if_neg (by rw [hch]; exact hc)]
    simp [hbody, hexp, hc, hs]

/-- The loop of DB_TICK over the first m bits of byte j: everything it does. -/
theorem tickLoop_spec (j : Nat) (s : State) (hs : s.Shaped) (m : Nat) (hm : m ≤ 8) :
    let r := (List.range m).foldl (tickBit j) (s, 0)
    r.1 = { s with chg := r.1.chg, cnt := r.1.cnt, stable := r.1.stable, ev := r.1.ev }
      ∧ r.1.Shaped
      ∧ r.1.ev = s.ev ++ (((List.range m).filter fun k => expiring s (8 * j + k)).map fun k =>
            .dbChange (8 * j + k) (s.readRaw (8 * j + k)))
      ∧ (∀ k, r.2.getLsbD k = (decide (k < m) && expiring s (8 * j + k)))
      ∧ ∀ i,
        r.1.readCnt i = (if (8 * j ≤ i ∧ i < 8 * j + m) ∧ changing s i = true then s.readCnt i - 1
            else s.readCnt i)
          ∧ r.1.readChg i = (if (8 * j ≤ i ∧ i < 8 * j + m) ∧ expiring s i = true then false
              else s.readChg i)
          ∧ r.1.readStable i = (if (8 * j ≤ i ∧ i < 8 * j + m) ∧ expiring s i = true then s.readRaw i
              else s.readStable i) := by
  induction m with
  | zero =>
    have hno : ∀ i, ¬ (8 * j ≤ i ∧ i < 8 * j + 0) := fun i => by omega
    refine ⟨rfl, hs, by simp, by simp, fun i => ?_⟩
    rw [if_neg (fun h => hno i h.1), if_neg (fun h => hno i h.1), if_neg (fun h => hno i h.1)]
    exact ⟨rfl, rfl, rfl⟩
  | succ m ih =>
    have ih := ih (by omega)
    rw [List.range_succ, List.foldl_append, List.foldl_cons, List.foldl_nil]
    generalize (List.range m).foldl (tickBit j) (s, 0) = r at ih
    obtain ⟨t, mask⟩ := r
    obtain ⟨hframe, ht, hev, hmask, hread⟩ := ih
    simp only at hframe ht hev hmask hread
    obtain ⟨hframe', ht', hev', hmask', hread'⟩ := tickBit_spec j m t mask ht
    have hraw : ∀ i, t.readRaw i = s.readRaw i := fun i => by rw [hframe]; rfl
    have hno : ∀ p : Prop, ¬ ((8 * j ≤ 8 * j + m ∧ 8 * j + m < 8 * j + m) ∧ p) := fun p h => by omega
    obtain ⟨hcnt0, hchg0, hst0⟩ := hread (8 * j + m)
    rw [if_neg (hno _)] at hcnt0 hchg0 hst0
    have hcfg : t.cfg = s.cfg := by rw [hframe]
    have hch : changing t (8 * j + m) = changing s (8 * j + m) := by simp only [changing, hcfg, hchg0]
    have hexp : expiring t (8 * j + m) = expiring s (8 * j + m) := by simp only [expiring, hch, hcnt0]
    refine ⟨hframe'.trans (by rw [hframe]), ht', ?_, ?_, fun i => ?_⟩
    · rw [hev', hev, hexp, hraw, List.filter_append, List.map_append, List.append_assoc]
      by_cases h : expiring s (8 * j + m) = true <;> simp [h]
    · intro k
      rw [hmask', hexp]
      by_cases hkm : k = m
      · subst hkm
        have hk8 : k < 8 := by omega
        by_cases h : expiring s (8 * j + k) = true
        · rw [if_pos h, h]; simp [hk8]
        · rw [if_neg h, hmask]; simp [h]
      · have hlt : k < m + 1 ↔ k < m := by omega
        by_cases h : expiring s (8 * j + m) = true
        · have hbit : (1#8 <<< m).getLsbD k = false := by
            by_cases hk : k < m
            · simp [hk]
            · have : ¬ k - m = 0 := by omega
              simp [this]
          rw [if_pos h, BitVec.getLsbD_or, hbit, hmask, Bool.or_false]
          simp [hlt]
        · rw [if_neg h, hmask]
          simp [hlt]
    · obtain ⟨h1, h2, h3⟩ := hread' i
      obtain ⟨o1, o2, o3⟩ := hread i
      rw [h1, h2, h3, hch, hexp]
      by_cases hi : i = 8 * j + m
      · subst hi
        have hin : 8 * j ≤ 8 * j + m ∧ 8 * j + m < 8 * j + (m + 1) := by omega
        simp only [hin, hcnt0, hchg0, hst0, hraw, true_and, and_self]
      · have hrange : (8 * j ≤ i ∧ i < 8 * j + (m + 1)) ↔ (8 * j ≤ i ∧ i < 8 * j + m) := by omega
        simp only [hi, false_and, if_false, hrange]
        exact ⟨o1, o2, o3⟩

/-- The events of byte j in one tick: a DbChange for each input that expires, in ascending order, then,
if there was one, the DbByte of the byte (41_debouncer.md R122). -/
def byteReport (s t : State) (j : Nat) (mask : Byte) : List Event :=
  (((List.range 8).filter fun k => expiring s (8 * j + k)).map fun k =>
      Event.dbChange (8 * j + k) (s.readRaw (8 * j + k)))
    ++ if mask = 0 then [] else [.dbByte j (t.stableByte j) mask]

/-- DB_TICK's outer loop body: everything it does to byte j, and that the other bytes stay. -/
theorem tickByte_spec (s : State) (hs : s.Shaped) (j : Nat) :
    let t := tickByte s j
    t = { s with chg := t.chg, cnt := t.cnt, stable := t.stable, ev := t.ev } ∧ t.Shaped
      ∧ (∃ mask : Byte, (∀ k, mask.getLsbD k = (decide (k < 8) && expiring s (8 * j + k)))
          ∧ t.ev = s.ev ++ byteReport s t j mask)
      ∧ ∀ i,
        t.readCnt i = (if (8 * j ≤ i ∧ i < 8 * j + 8) ∧ changing s i = true then s.readCnt i - 1
            else s.readCnt i)
          ∧ t.readChg i = (if (8 * j ≤ i ∧ i < 8 * j + 8) ∧ expiring s i = true then false
              else s.readChg i)
          ∧ t.readStable i = (if (8 * j ≤ i ∧ i < 8 * j + 8) ∧ expiring s i = true then s.readRaw i
              else s.readStable i) := by
  obtain ⟨hframe, hshape, hev, hmask, hread⟩ := tickLoop_spec j s hs 8 (le_refl 8)
  have hbody : tickByte s j = (let sm := (List.range 8).foldl (tickBit j) (s, 0)
    if sm.2 = 0 then sm.1 else sm.1.emit (.dbByte j (sm.1.stableByte j) sm.2)) := rfl
  generalize (List.range 8).foldl (tickBit j) (s, 0) = r at *
  obtain ⟨u, mask⟩ := r
  simp only at hframe hshape hev hmask hread hbody
  by_cases hm : mask = 0
  · rw [if_pos hm] at hbody
    rw [hbody]
    exact ⟨hframe, hshape, ⟨mask, hmask, by rw [hev, byteReport, if_pos hm, List.append_nil]⟩, hread⟩
  · rw [if_neg hm] at hbody
    rw [hbody]
    refine ⟨?_, hshape, ⟨mask, hmask, ?_⟩, hread⟩
    · rw [hframe]; rfl
    · rw [emit_ev, hev, byteReport, if_neg hm, List.append_assoc]; rfl

/-- DB_TICK's outer loop over the first m bytes: everything it does but its events. -/
theorem tickBytes_spec (s : State) (hs : s.Shaped) (m : Nat) :
    let t := (List.range m).foldl tickByte s
    t = { s with chg := t.chg, cnt := t.cnt, stable := t.stable, ev := t.ev } ∧ t.Shaped
      ∧ ∀ i, t.readCnt i = (if i < 8 * m ∧ changing s i = true then s.readCnt i - 1 else s.readCnt i)
          ∧ t.readChg i = (if i < 8 * m ∧ expiring s i = true then false else s.readChg i)
          ∧ t.readStable i = (if i < 8 * m ∧ expiring s i = true then s.readRaw i
              else s.readStable i) := by
  induction m with
  | zero => exact ⟨rfl, hs, fun i => by simp⟩
  | succ m ih =>
    rw [List.range_succ, List.foldl_append, List.foldl_cons, List.foldl_nil]
    generalize (List.range m).foldl tickByte s = t at ih
    obtain ⟨hframe, ht, hread⟩ := ih
    obtain ⟨hframe', ht', -, hread'⟩ := tickByte_spec t ht m
    have hraw : ∀ i, t.readRaw i = s.readRaw i := fun i => by rw [hframe]; rfl
    have hcfg : t.cfg = s.cfg := by rw [hframe]
    refine ⟨hframe'.trans (by rw [hframe]), ht', fun i => ?_⟩
    obtain ⟨h1, h2, h3⟩ := hread' i
    obtain ⟨o1, o2, o3⟩ := hread i
    rw [h1, h2, h3]
    by_cases hi : i < 8 * m
    · have hno : ¬ (8 * m ≤ i ∧ i < 8 * m + 8) := by omega
      have hlt : i < 8 * (m + 1) := by omega
      simp only [hno, false_and, if_false, o1, o2, o3, hi, hlt, true_and]
    · simp only [hi, false_and, if_false] at o1 o2 o3
      have hch : changing t i = changing s i := by simp only [changing, hcfg, o2]
      have hexp : expiring t i = expiring s i := by simp only [expiring, hch, o1]
      have hrange : (8 * m ≤ i ∧ i < 8 * m + 8) ↔ i < 8 * (m + 1) := by omega
      simp only [hch, hexp, o1, o2, o3, hraw, hrange]
      exact ⟨trivial, trivial, trivial⟩

/-- DB_TICK's loops: everything they do but their events (41_debouncer.md R122). -/
theorem tickAll_spec (s : State) (hs : s.Shaped) :
    let t := tickAll s
    t = { s with chg := t.chg, cnt := t.cnt, stable := t.stable, ev := t.ev } ∧ t.Shaped
      ∧ ∀ i, t.readCnt i = (if changing s i = true then s.readCnt i - 1 else s.readCnt i)
          ∧ t.readChg i = (if expiring s i = true then false else s.readChg i)
          ∧ t.readStable i = (if expiring s i = true then s.readRaw i else s.readStable i) := by
  obtain ⟨hframe, ht, hread⟩ := tickBytes_spec s hs (byteCount s.cfg)
  refine ⟨hframe, ht, fun i => ?_⟩
  obtain ⟨h1, h2, h3⟩ := hread i
  have hin : changing s i = true → i < 8 * byteCount s.cfg := by
    intro h
    simp only [changing, Bool.and_eq_true, decide_eq_true_eq] at h
    unfold byteCount
    omega
  refine ⟨h1.trans ?_, h2.trans ?_, h3.trans ?_⟩ <;> congr 1 <;> rw [eq_iff_iff]
  · exact ⟨fun h => h.2, fun h => ⟨hin h, h⟩⟩
  · exact ⟨fun h => h.2, fun h => ⟨hin (expiring_changing h), h⟩⟩
  · exact ⟨fun h => h.2, fun h => ⟨hin (expiring_changing h), h⟩⟩

/-! ### DB_WRSTABLE -/

/-- The loop of DB_WRSTABLE over its first m bits: everything it does. -/
theorem writeStableLoop_spec (j : Nat) (v : Byte) (s : State) (hs : s.Shaped) (m : Nat) :
    let t := (List.range m).foldl (writeStableBit j v) s
    t = { s with stable := t.stable } ∧ t.stable.length = s.stable.length
      ∧ ∀ i, t.readStable i
          = if 8 * j ≤ i ∧ i < 8 * j + m ∧ i < s.cfg.inputCount then v.getLsbD (i - 8 * j)
            else s.readStable i := by
  induction m with
  | zero =>
    refine ⟨rfl, rfl, fun i => ?_⟩
    rw [if_neg (by omega)]; rfl
  | succ m ih =>
    rw [List.range_succ, List.foldl_append, List.foldl_cons, List.foldl_nil]
    generalize (List.range m).foldl (writeStableBit j v) s = t at ih
    obtain ⟨hframe, hlen, hread⟩ := ih
    obtain ⟨-, -, -, -, hsst⟩ := hs
    have hcfg : t.cfg = s.cfg := by rw [hframe]
    by_cases hN : 8 * j + m < t.cfg.inputCount
    · have hbody : writeStableBit j v t m = t.writeStable (8 * j + m) (v.getLsbD m) := if_pos hN
      rw [hcfg] at hN
      have hbyte : (8 * j + m) / 8 < byteCount s.cfg := by unfold byteCount; omega
      rw [hbody]
      refine ⟨by rw [hframe]; rfl, by simpa using hlen, fun i => ?_⟩
      rw [readStable_writeStable, hlen, hsst, hread]
      by_cases hi : i = 8 * j + m
      · subst hi
        have hsub : 8 * j + m - 8 * j = m := by omega
        rw [if_pos ⟨rfl, hbyte⟩, if_pos ⟨by omega, by omega, hN⟩, hsub]
      · rw [if_neg (fun h => hi h.1)]
        have : (8 * j ≤ i ∧ i < 8 * j + (m + 1) ∧ i < s.cfg.inputCount)
            ↔ (8 * j ≤ i ∧ i < 8 * j + m ∧ i < s.cfg.inputCount) := by
          constructor <;> rintro ⟨a, b, c⟩ <;> exact ⟨a, by omega, c⟩
        simp only [this]
    · have hbody : writeStableBit j v t m = t := if_neg hN
      rw [hcfg] at hN
      rw [hbody]
      refine ⟨hframe, hlen, fun i => ?_⟩
      rw [hread]
      have : (8 * j ≤ i ∧ i < 8 * j + (m + 1) ∧ i < s.cfg.inputCount)
          ↔ (8 * j ≤ i ∧ i < 8 * j + m ∧ i < s.cfg.inputCount) := by
        constructor <;> rintro ⟨a, b, c⟩ <;> exact ⟨a, by omega, c⟩
      simp only [this]

end Sys2Proof.Machine
end

