-- ==== Sys2Proof/Laws/Decode.lean ====
section
/-! SUPPORT. Laws/Decode.lean: the fields of a command word (30_encoding.md R80) as numbers, and the
fields of a word made of fields. -/

namespace Sys2Proof

/-- The command word as a number (30_encoding.md R80). -/
theorem toNat_commandWord (op a : Byte) (b : Half) :
    (commandWord op a b).toNat = op.toNat * 2 ^ 24 + a.toNat * 2 ^ 16 + b.toNat := by
  have ha := a.isLt
  have hb := b.isLt
  have h1 : (op ++ a).toNat = op.toNat * 2 ^ 8 + a.toNat := by
    rw [BitVec.toNat_append, Nat.shiftLeft_eq, Nat.mul_comm, Nat.two_pow_add_eq_or_of_lt ha]
  have h2 : (commandWord op a b).toNat = (op ++ a).toNat * 2 ^ 16 + b.toNat := by
    show ((op ++ a) ++ b).toNat = _
    rw [BitVec.toNat_append, Nat.shiftLeft_eq, Nat.mul_comm, Nat.two_pow_add_eq_or_of_lt hb]
  rw [h2, h1]; ring

/-- `op` as a number: bits [31:24] (30_encoding.md R80). -/
theorem toNat_opField (w : Word) : (opField w).toNat = w.toNat / 2 ^ 24 := by
  have := w.isLt
  simp only [opField, BitVec.extractLsb'_toNat, Nat.shiftRight_eq_div_pow]
  omega

/-- `a` as a number: bits [23:16] (30_encoding.md R80). -/
theorem toNat_aField (w : Word) : (aField w).toNat = w.toNat / 2 ^ 16 % 256 := by
  simp only [aField, BitVec.extractLsb'_toNat, Nat.shiftRight_eq_div_pow]

/-- `b` as a number: bits [15:0] (30_encoding.md R80). -/
theorem toNat_bField (w : Word) : (bField w).toNat = w.toNat % 2 ^ 16 := by
  simp only [bField, BitVec.extractLsb'_toNat, Nat.shiftRight_eq_div_pow]; omega

theorem opField_commandWord (op a : Byte) (b : Half) : opField (commandWord op a b) = op := by
  have := a.isLt; have := b.isLt
  apply BitVec.eq_of_toNat_eq; rw [toNat_opField, toNat_commandWord]; omega

theorem aField_commandWord (op a : Byte) (b : Half) : aField (commandWord op a b) = a := by
  have := a.isLt; have := b.isLt
  apply BitVec.eq_of_toNat_eq; rw [toNat_aField, toNat_commandWord]; omega

theorem bField_commandWord (op a : Byte) (b : Half) : bField (commandWord op a b) = b := by
  have := a.isLt; have := b.isLt
  apply BitVec.eq_of_toNat_eq; rw [toNat_bField, toNat_commandWord]; omega

/-- A word is made of its three fields. -/
theorem commandWord_fields (w : Word) : commandWord (opField w) (aField w) (bField w) = w := by
  have := w.isLt
  apply BitVec.eq_of_toNat_eq; rw [toNat_commandWord, toNat_opField, toNat_aField, toNat_bField]; omega

/-- A word whose opcode is in no row is illegal (30_encoding.md R85). -/
theorem decode_of_no_row {w : Word} (h : ∀ r ∈ opMap, r.op.toNat ≠ w.toNat / 2 ^ 24) :
    decode w = .error .illegalCommand := by
  have hnone : opMap.find? (fun r => r.op == opField w) = none := by
    rw [List.find?_eq_none]
    intro r hr heq
    rw [beq_iff_eq] at heq
    exact h r hr (by rw [heq, toNat_opField])
  unfold decode
  rw [hnone]

/-- What a word of a row decodes to (30_encoding.md R84, R86). -/
theorem decode_of_row {w : Word} {r : OpRow}
    (h : opMap.find? (fun r => r.op.toNat == w.toNat / 2 ^ 24) = some r) :
    decode w = if (r.aReserved = true ∧ w.toNat / 2 ^ 16 % 256 ≠ 0)
          ∨ (r.bReserved = true ∧ w.toNat % 2 ^ 16 ≠ 0) then .error .reservedField
        else .ok (r.build (BitVec.ofNat 8 (w.toNat / 2 ^ 16 % 256)) (BitVec.ofNat 16 (w.toNat % 2 ^ 16))) := by
  have hop : (fun r : OpRow => r.op == opField w) = fun r : OpRow => r.op.toNat == w.toNat / 2 ^ 24 := by
    funext r
    rw [← toNat_opField, Bool.eq_iff_iff, beq_iff_eq, beq_iff_eq, BitVec.toNat_inj]
  have ha : aField w ≠ 0 ↔ w.toNat / 2 ^ 16 % 256 ≠ 0 := by
    rw [← toNat_aField, ne_eq, ne_eq, ← BitVec.toNat_inj]; rfl
  have hb : bField w ≠ 0 ↔ w.toNat % 2 ^ 16 ≠ 0 := by
    rw [← toNat_bField, ne_eq, ne_eq, ← BitVec.toNat_inj]; rfl
  simp only [← ha, ← hb]
  rw [← toNat_aField, ← toNat_bField, BitVec.ofNat_toNat, BitVec.ofNat_toNat,
    BitVec.setWidth_eq, BitVec.setWidth_eq]
  unfold decode
  rw [hop, h]
  simp only [Bool.and_eq_true, bne_iff_ne]
  by_cases h1 : r.aReserved = true ∧ aField w ≠ 0
  · rw [if_pos h1, if_pos (Or.inl h1)]
  · by_cases h2 : r.bReserved = true ∧ bField w ≠ 0
    · rw [if_neg h1, if_pos h2, if_pos (Or.inr h2)]
    · rw [if_neg h1, if_neg h2, if_neg (by rintro (h | h) <;> contradiction)]

end Sys2Proof
end

