-- ==== Sys2Proof/Laws/Exec.lean ====
section
/-! SUPPORT. Laws/Exec.lean: what each command with an index operand answers, by its range check, over
the loop or the write it makes (30_encoding.md R86, 60_exceptions.md R250). -/

namespace Sys2Proof.Machine

theorem exec_tmMark_inRange {slot : Byte} {s : State} (h : slot.toNat < s.cfg.timerSlots) :
    exec (.tmMark slot) s = .next { s.writeMark slot.toNat s.now with response := some 0 } := by
  simp only [exec, execTmMark, withSlot_inRange h, respond]

theorem exec_tmMark_outOfRange {slot : Byte} {s : State} (h : s.cfg.timerSlots ≤ slot.toNat) :
    exec (.tmMark slot) s
      = .next { s with fault := some .indexRange, faultWord := encode (.tmMark slot), response := none } := by
  simp only [exec, execTmMark, withSlot_outOfRange h, takeFault]

theorem exec_tmElapsed_due {slot : Byte} {d : Half} {s : State} (h : slot.toNat < s.cfg.timerSlots)
    (hd : d.toNat ≤ (gap16 s.now (s.readMark slot.toNat)).toNat) :
    exec (.tmElapsed slot d) s = .next { s.writeMark slot.toNat s.now with response := some 1 } := by
  simp only [exec, execTmElapsed, withSlot_inRange h, if_pos hd, respond]

theorem exec_tmElapsed_notDue {slot : Byte} {d : Half} {s : State} (h : slot.toNat < s.cfg.timerSlots)
    (hd : ¬ d.toNat ≤ (gap16 s.now (s.readMark slot.toNat)).toNat) :
    exec (.tmElapsed slot d) s = .next { s with response := some 0 } := by
  simp only [exec, execTmElapsed, withSlot_inRange h, if_neg hd, respond]

theorem exec_tmElapsed_outOfRange {slot : Byte} {d : Half} {s : State}
    (h : s.cfg.timerSlots ≤ slot.toNat) :
    exec (.tmElapsed slot d) s
      = .next { s with
          fault := some .indexRange, faultWord := encode (.tmElapsed slot d), response := none } := by
  simp only [exec, execTmElapsed, withSlot_outOfRange h, takeFault]

theorem exec_dbSample_inRange {j : Half} {v : Byte} {s : State} (h : j.toNat < byteCount s.cfg) :
    exec (.dbSample j v) s = .next { sampleByte j.toNat v s with response := some 0 } := by
  simp only [exec, execDbSample, withByteIndex_inRange h, respond]

theorem exec_dbSample_outOfRange {j : Half} {v : Byte} {s : State} (h : byteCount s.cfg ≤ j.toNat) :
    exec (.dbSample j v) s
      = .next { s with
          fault := some .indexRange, faultWord := encode (.dbSample j v), response := none } := by
  simp only [exec, execDbSample, withByteIndex_outOfRange h, takeFault]

theorem exec_dbTick (s : State) : exec .dbTick s = .next { tickAll s with response := some 0 } := rfl

theorem exec_dbRdstable_inRange {j : Half} {s : State} (h : j.toNat < byteCount s.cfg) :
    exec (.dbRdstable j) s = .next { s with response := some ((s.stableByte j.toNat).setWidth 16) } := by
  simp only [exec, execDbRdstable, withByteIndex_inRange h, respond]

theorem exec_dbRdstable_outOfRange {j : Half} {s : State} (h : byteCount s.cfg ≤ j.toNat) :
    exec (.dbRdstable j) s
      = .next { s with fault := some .indexRange, faultWord := encode (.dbRdstable j), response := none } := by
  simp only [exec, execDbRdstable, withByteIndex_outOfRange h, takeFault]

theorem exec_dbWrstable_inRange {j : Half} {v : Byte} {s : State} (h : j.toNat < byteCount s.cfg)
    (ha : s.cfg.aliasMode = true) :
    exec (.dbWrstable j v) s = .next { writeStableByte j.toNat v s with response := some 0 } := by
  simp only [exec, execDbWrstable, withByteIndex_inRange h, ha, if_true, respond]

theorem exec_dbWrstable_notAlias {j : Half} {v : Byte} {s : State} (h : j.toNat < byteCount s.cfg)
    (ha : s.cfg.aliasMode = false) :
    exec (.dbWrstable j v) s
      = .next { s with
          fault := some .notAliasMode, faultWord := encode (.dbWrstable j v), response := none } := by
  simp only [exec, execDbWrstable, withByteIndex_inRange h, ha, takeFault]
  rfl

theorem exec_dbWrstable_outOfRange {j : Half} {v : Byte} {s : State} (h : byteCount s.cfg ≤ j.toNat) :
    exec (.dbWrstable j v) s
      = .next { s with
          fault := some .indexRange, faultWord := encode (.dbWrstable j v), response := none } := by
  simp only [exec, execDbWrstable, withByteIndex_outOfRange h, takeFault]

theorem exec_rxRdbuf_inRange {k : Half} {s : State} (h : k.toNat < s.cfg.recvBufferSize) :
    exec (.rxRdbuf k) s = .next { s with response := some ((s.readBuf k.toNat).setWidth 16) } := by
  simp only [exec, execRxRdbuf, withOffset_inRange h, respond]

theorem exec_rxRdbuf_outOfRange {k : Half} {s : State} (h : s.cfg.recvBufferSize ≤ k.toNat) :
    exec (.rxRdbuf k) s
      = .next { s with fault := some .indexRange, faultWord := encode (.rxRdbuf k), response := none } := by
  simp only [exec, execRxRdbuf, withOffset_outOfRange h, takeFault]

end Sys2Proof.Machine
end

