-- ==== Sys2Proof/Laws/PerInstr.lean ====
section
/-! SUPPORT. Laws/PerInstr.lean: the statements made of every command, one lemma a constructor. -/

namespace Sys2Proof.Laws

/-- The word of the command has the opcode of a row of the opcode map, and 0 in every field the row
reserves (30_encoding.md R82, R84). -/
def MatchesTable.Statement (i : Instr) : Prop :=
  ∃ r ∈ opMap, r.op = opField (encode i) ∧ (r.aReserved = true → aField (encode i) = 0)
    ∧ (r.bReserved = true → bField (encode i) = 0)

/-- A row of the opcode map with the word's opcode, and its reserved fields 0, is all it takes. -/
theorem matchesTable_of_row (n : Nat) (hn : n < opMap.length) {op a : Byte} {b : Half} {i : Instr}
    (hi : encode i = commandWord op a b) (hop : opMap[n].op = op)
    (ha : opMap[n].aReserved = true → a = 0) (hb : opMap[n].bReserved = true → b = 0) :
    MatchesTable.Statement i := by
  refine ⟨opMap[n], List.getElem_mem hn, ?_, ?_, ?_⟩
  · rw [hi, opField_commandWord, hop]
  · rw [hi, aField_commandWord]; exact ha
  · rw [hi, bField_commandWord]; exact hb

theorem MatchesTable.tmSet (t : Half) : MatchesTable.Statement (.tmSet t) :=
  matchesTable_of_row 0 (by decide) rfl rfl (fun _ => rfl) Bool.noConfusion

theorem MatchesTable.tmMark (s : Byte) : MatchesTable.Statement (.tmMark s) :=
  matchesTable_of_row 1 (by decide) rfl rfl Bool.noConfusion (fun _ => rfl)

theorem MatchesTable.tmElapsed (s : Byte) (d : Half) : MatchesTable.Statement (.tmElapsed s d) :=
  matchesTable_of_row 2 (by decide) rfl rfl Bool.noConfusion Bool.noConfusion

theorem MatchesTable.dbSample (j : Half) (v : Byte) : MatchesTable.Statement (.dbSample j v) :=
  matchesTable_of_row 3 (by decide) rfl rfl Bool.noConfusion Bool.noConfusion

theorem MatchesTable.dbTick : MatchesTable.Statement .dbTick :=
  matchesTable_of_row 4 (by decide) rfl rfl (fun _ => rfl) (fun _ => rfl)

theorem MatchesTable.dbRdstable (j : Half) : MatchesTable.Statement (.dbRdstable j) :=
  matchesTable_of_row 5 (by decide) rfl rfl (fun _ => rfl) Bool.noConfusion

theorem MatchesTable.dbWrstable (j : Half) (v : Byte) : MatchesTable.Statement (.dbWrstable j v) :=
  matchesTable_of_row 6 (by decide) rfl rfl Bool.noConfusion Bool.noConfusion

theorem MatchesTable.ckInit : MatchesTable.Statement .ckInit :=
  matchesTable_of_row 7 (by decide) rfl rfl (fun _ => rfl) (fun _ => rfl)

theorem MatchesTable.ckUpdate (v : Byte) : MatchesTable.Statement (.ckUpdate v) :=
  matchesTable_of_row 8 (by decide) rfl rfl Bool.noConfusion (fun _ => rfl)

theorem MatchesTable.ckRead : MatchesTable.Statement .ckRead :=
  matchesTable_of_row 9 (by decide) rfl rfl (fun _ => rfl) (fun _ => rfl)

theorem MatchesTable.ckVerify (e : Half) : MatchesTable.Statement (.ckVerify e) :=
  matchesTable_of_row 10 (by decide) rfl rfl (fun _ => rfl) Bool.noConfusion

theorem MatchesTable.rxArm (t : Half) : MatchesTable.Statement (.rxArm t) :=
  matchesTable_of_row 11 (by decide) rfl rfl (fun _ => rfl) Bool.noConfusion

theorem MatchesTable.rxByte (v : Byte) (t : Half) : MatchesTable.Statement (.rxByte v t) :=
  matchesTable_of_row 12 (by decide) rfl rfl Bool.noConfusion Bool.noConfusion

theorem MatchesTable.rxPoll (t : Half) : MatchesTable.Statement (.rxPoll t) :=
  matchesTable_of_row 13 (by decide) rfl rfl (fun _ => rfl) Bool.noConfusion

theorem MatchesTable.rxStatus : MatchesTable.Statement .rxStatus :=
  matchesTable_of_row 14 (by decide) rfl rfl (fun _ => rfl) (fun _ => rfl)

theorem MatchesTable.rxClrerr : MatchesTable.Statement .rxClrerr :=
  matchesTable_of_row 15 (by decide) rfl rfl (fun _ => rfl) (fun _ => rfl)

theorem MatchesTable.rxRdbuf (k : Half) : MatchesTable.Statement (.rxRdbuf k) :=
  matchesTable_of_row 16 (by decide) rfl rfl (fun _ => rfl) Bool.noConfusion

end Sys2Proof.Laws
end

