-- ==== Sys2Proof/Laws/Receiver.lean ====
section
/-! SUPPORT. Laws/Receiver.lean: what the receiver's procedures do in each receiver state
(43_receiver.md), as equations between states. -/

namespace Sys2Proof.Machine

/-- The gap as a number (40_timer.md R100). -/
theorem toNat_gap16 (t m : Half) : (gap16 t m).toNat = (t.toNat + 65536 - m.toNat) % 65536 := by
  simp [gap16, BitVec.toNat_sub]
  omega

theorem withinWindow_eq (t m : Half) (w : Nat) :
    withinWindow t m w = decide ((t.toNat + 65536 - m.toNat) % 65536 ≤ w) := by
  rw [withinWindow, toNat_gap16]

/-- The six receiver states. -/
theorem rxState_cases (s : State) :
    s.rxState = .idle ∨ s.rxState = .awaitStart ∨ s.rxState = .header ∨ s.rxState = .payload
      ∨ s.rxState = .checksum ∨ s.rxState = .complete := by
  cases s.rxState <;> simp

theorem writeBuf_inRange {s : State} {off : Nat} (v : Byte) (h : off < s.cfg.recvBufferSize) :
    s.writeBuf off v = { s with rxBuf := memWrite s.rxBuf off v } := by
  simp [State.writeBuf, h]

/-! ### RX_BYTE by receiver state (43_receiver.md R192) -/

theorem receiveByte_idle {v : Byte} {t : Half} {s : State} (h : s.rxState = .idle) :
    receiveByte v t s = idleByte v t s := by
  simp [receiveByte, h]

theorem receiveByte_awaitStart {v : Byte} {t : Half} {s : State} (h : s.rxState = .awaitStart) :
    receiveByte v t s = awaitedByte v t s := by
  simp [receiveByte, h]

theorem receiveByte_inFrame {v : Byte} {t : Half} {s : State}
    (h : s.rxState = .header ∨ s.rxState = .payload ∨ s.rxState = .checksum) :
    receiveByte v t s = frameByte v t s := by
  rcases h with h | h | h <;> simp [receiveByte, h]

theorem receiveByte_complete {v : Byte} {t : Half} {s : State} (h : s.rxState = .complete) :
    receiveByte v t s = s := by
  simp [receiveByte, h]

/-- The first byte of a frame (43_receiver.md R195). -/
theorem startFrame_eq {v : Byte} {t : Half} {s : State} (h : 4 ≤ s.cfg.recvBufferSize) :
    startFrame v t s = { s with
      frameValid := false, rxBuf := memWrite (memWrite s.rxBuf 0 0) 2 v
      rxAcc := checksumFold s.cfg (checksumStart s.cfg) v, rxPos := 1, rxMark := t
      rxState := .header } := by
  have h0 : 0 < s.cfg.recvBufferSize := by omega
  have h2 : 2 < s.cfg.recvBufferSize := by omega
  simp [startFrame, State.writeBuf, h0, h2]

/-- A byte of a frame within its window (43_receiver.md R192). -/
theorem frameByte_within {v : Byte} {t : Half} {s : State}
    (h : (t.toNat + 65536 - s.rxMark.toNat) % 65536 ≤ s.cfg.tGap) :
    frameByte v t s = acceptByte v { s with rxMark := t } := by
  simp [frameByte, withinWindow_eq, h]

/-- A byte of a frame after its window (43_receiver.md R192). -/
theorem frameByte_late {v : Byte} {t : Half} {s : State}
    (h : s.cfg.tGap < (t.toNat + 65536 - s.rxMark.toNat) % 65536) :
    frameByte v t s = lateByte v t (s.report .errTimeout).toIdle := by
  simp [frameByte, withinWindow_eq, Nat.not_le.2 h]

/-- A byte in AWAIT_START within the start window (43_receiver.md R192). -/
theorem awaitedByte_within {v : Byte} {t : Half} {s : State}
    (h : (t.toNat + 65536 - s.rxMark.toNat) % 65536 ≤ s.cfg.tStart) :
    awaitedByte v t s = startFrame v t s := by
  simp [awaitedByte, withinWindow_eq, h]

/-- A byte in AWAIT_START after the start window (43_receiver.md R192). -/
theorem awaitedByte_late {v : Byte} {t : Half} {s : State}
    (h : s.cfg.tStart < (t.toNat + 65536 - s.rxMark.toNat) % 65536) :
    awaitedByte v t s = lateByte v t (s.report .errTimeoutStart).toIdle := by
  simp [awaitedByte, withinWindow_eq, Nat.not_le.2 h]

/-! ### A byte in its window, by receiver state (43_receiver.md R196, R199, R201) -/

/-- The `from` byte, addresses sane (43_receiver.md R196, R197). -/
theorem acceptHeader_from_sane {v : Byte} {s : State} (hst : s.rxState = .header) (hpos : s.rxPos = 1)
    (hsize : 4 ≤ s.cfg.recvBufferSize) (hwf : memWf s.rxBuf = true)
    (h : addrSane s.cfg (s.readBuf 2) v = true) :
    acceptHeader v s = { s with
      rxAcc := checksumFold s.cfg s.rxAcc v, rxBuf := memWrite s.rxBuf 3 v, rxPos := 2 } := by
  have h3 : 3 < s.cfg.recvBufferSize := by omega
  have hr2 : memRead (memWrite s.rxBuf 3 v) 2 = memRead s.rxBuf 2 :=
    memRead_memWrite_other s.rxBuf v (by omega)
  have hr3 : memRead (memWrite s.rxBuf 3 v) 3 = v := memRead_memWrite_same _ _ _ hwf
  simp only [State.readBuf] at h
  simp [acceptHeader, hpos, acceptFrom, addressCheck, State.writeBuf, h3, State.readBuf, hr2, hr3, h, hst]

/-- The `from` byte, addresses not sane (43_receiver.md R196, R197). -/
theorem acceptHeader_from_insane {v : Byte} {s : State} (hpos : s.rxPos = 1)
    (hsize : 4 ≤ s.cfg.recvBufferSize) (hwf : memWf s.rxBuf = true)
    (h : addrSane s.cfg (s.readBuf 2) v = false) :
    acceptHeader v s = (State.report { s with
      rxAcc := checksumFold s.cfg s.rxAcc v, rxBuf := memWrite s.rxBuf 3 v } .errUnexpected).toIdle := by
  have h3 : 3 < s.cfg.recvBufferSize := by omega
  have hr2 : memRead (memWrite s.rxBuf 3 v) 2 = memRead s.rxBuf 2 :=
    memRead_memWrite_other s.rxBuf v (by omega)
  have hr3 : memRead (memWrite s.rxBuf 3 v) 3 = v := memRead_memWrite_same _ _ _ hwf
  simp only [State.readBuf] at h
  simp [acceptHeader, hpos, acceptFrom, addressCheck, State.writeBuf, h3, State.readBuf, hr2, hr3, h,
    State.toIdle]

/-- The `len` byte of a frame that fits (43_receiver.md R196, R198). -/
theorem acceptHeader_len_fits {v : Byte} {s : State} (hst : s.rxState = .header) (hpos : s.rxPos ≠ 1)
    (h : v.toNat + 4 ≤ s.cfg.recvBufferSize) :
    acceptHeader v s = { s with
      rxAcc := checksumFold s.cfg s.rxAcc v, rxBuf := memWrite s.rxBuf 1 v, rxLen := v, rxPos := 0
      rxState := if v = 0 then .checksum else .payload } := by
  have h1 : 1 < s.cfg.recvBufferSize := by omega
  have hno : ¬ s.cfg.recvBufferSize < v.toNat + 4 := by omega
  have hpos' : ¬ s.rxPos = 1#8 := hpos
  simp [acceptHeader, hpos', acceptLen, lengthCheck, State.writeBuf, h1, hno, hst]

/-- The `len` byte of a frame that does not fit (43_receiver.md R196, R198). -/
theorem acceptHeader_len_long {v : Byte} {s : State} (hpos : s.rxPos ≠ 1)
    (hsize : 4 ≤ s.cfg.recvBufferSize) (h : s.cfg.recvBufferSize < v.toNat + 4) :
    acceptHeader v s = (State.report { s with
      rxAcc := checksumFold s.cfg s.rxAcc v, rxBuf := memWrite s.rxBuf 1 v } .errLong).toIdle := by
  have h1 : 1 < s.cfg.recvBufferSize := by omega
  have hpos' : ¬ s.rxPos = 1#8 := hpos
  simp [acceptHeader, hpos', acceptLen, lengthCheck, State.writeBuf, h1, h, State.toIdle]

/-- A payload byte that fits (43_receiver.md R199). -/
theorem acceptPayload_eq {v : Byte} {s : State} (h : 4 + s.rxPos.toNat < s.cfg.recvBufferSize) :
    acceptPayload v s = if s.rxPos + 1 = s.rxLen then { s with
        rxAcc := checksumFold s.cfg s.rxAcc v, rxBuf := memWrite s.rxBuf (4 + s.rxPos.toNat) v
        rxPos := 0, rxState := .checksum }
      else { s with
        rxAcc := checksumFold s.cfg s.rxAcc v, rxBuf := memWrite s.rxBuf (4 + s.rxPos.toNat) v
        rxPos := s.rxPos + 1 } := by
  simp [acceptPayload, State.writeBuf, h]

/-- The end of a frame whose checksum agrees (43_receiver.md R201). -/
theorem complete_good {s : State} (h : checksumVerify s.cfg s.rxCk s.rxAcc = true) :
    complete s = { s with
      lastErr := .errNone, frameValid := true, ev := s.ev ++ [frameEvent s], rxState := .idle
      rxPos := 0 } := by
  simp only [complete, h, if_true, deliver, State.emit, State.toIdle]
  rfl

/-- The end of a frame whose checksum does not agree (43_receiver.md R201). -/
theorem complete_bad {s : State} (h : checksumVerify s.cfg s.rxCk s.rxAcc = false) :
    complete s = { s with
      lastErr := .errChecksum, errFlags := s.errFlags ||| errFlag .errChecksum
      ev := s.ev ++ [.rxError .errChecksum], rxState := .idle, rxPos := 0 } := by
  simp [complete, h, State.report, State.toIdle]

end Sys2Proof.Machine
end

