-- ==== Sys2Proof/Laws/Step.lean ====
section
/-! SUPPORT. Laws/Step.lean: everything a step can do (10_state.md R20, 60_exceptions.md R251, R252,
R256), and that a command always answers a next state. -/

namespace Sys2Proof.Machine

/-- A command always answers a next state: faults of the block are next states too (60_exceptions.md
R251). -/
theorem exec_answers (i : Instr) (s : State) : ∃ t, exec i s = .next t := by
  cases i <;>
    simp only [exec, execTmSet, execTmMark, execTmElapsed, execDbSample, execDbTick, execDbRdstable,
      execDbWrstable, execCkInit, execCkUpdate, execCkRead, execCkVerify, execRxArm, execRxByte,
      execRxPoll, execRxStatus, execRxClrerr, execRxRdbuf, withSlot, withByteIndex, withOffset,
      requireIndex, respond, takeFault] <;>
    (repeat' split) <;> exact ⟨_, rfl⟩

/-- Everything a command word can do when it reaches the block. -/
theorem acceptCommand_cases (w : Word) (s : State) :
    (s.fault ≠ none ∧ acceptCommand w s = .next { s with response := none })
      ∨ (s.fault = none ∧ ∃ i, decode w = .ok i ∧ acceptCommand w s = exec i s)
      ∨ (s.fault = none ∧ ∃ r, decode w = .error r
          ∧ acceptCommand w s
            = .next { s with fault := some (rejectFault r), faultWord := w, response := none }) := by
  unfold acceptCommand performCommand
  cases hf : s.fault with
  | some code => exact .inl ⟨by simp, rfl⟩
  | none =>
    cases hd : decode w with
    | ok i => exact .inr (.inl ⟨rfl, i, rfl, rfl⟩)
    | error r => exact .inr (.inr ⟨rfl, r, rfl, by simp [takeFault]⟩)

/-- Everything a step can do, by the oldest input of the host. -/
theorem step_cases (s : State) :
    (s.inputs = [] ∧ step s = .next s)
      ∨ (∃ w rest, s.inputs = .command w :: rest ∧ step s = acceptCommand w { s with inputs := rest })
      ∨ ∃ c rest, s.inputs = .reset c :: rest
          ∧ step s = .next { State.resetWith c with inputs := rest } := by
  unfold step serve
  match s.inputs with
  | [] => exact .inl ⟨rfl, rfl⟩
  | .command w :: rest => exact .inr (.inl ⟨w, rest, rfl, rfl⟩)
  | .reset c :: rest => exact .inr (.inr ⟨c, rest, rfl, rfl⟩)

/-- A step that answers a next state did one of five things. -/
theorem step_next_cases {s t : State} (h : step s = .next t) :
    (s.inputs = [] ∧ t = s)
      ∨ (∃ w rest, s.inputs = .command w :: rest ∧ s.fault ≠ none
          ∧ t = { s with inputs := rest, response := none })
      ∨ (∃ w rest i, s.inputs = .command w :: rest ∧ s.fault = none ∧ decode w = .ok i
          ∧ exec i { s with inputs := rest } = .next t)
      ∨ (∃ w rest r, s.inputs = .command w :: rest ∧ s.fault = none ∧ decode w = .error r
          ∧ t = { s with
              inputs := rest, fault := some (rejectFault r), faultWord := w, response := none })
      ∨ ∃ c rest, s.inputs = .reset c :: rest ∧ t = { State.resetWith c with inputs := rest } := by
  rcases step_cases s with ⟨hi, hs⟩ | ⟨w, rest, hi, hs⟩ | ⟨c, rest, hi, hs⟩
  · rw [hs] at h; cases h; exact .inl ⟨hi, rfl⟩
  · rw [hs] at h
    rcases acceptCommand_cases w { s with inputs := rest } with ⟨hf, ha⟩ | ⟨hf, i, hd, ha⟩ | ⟨hf, r, hd, ha⟩
    · rw [ha] at h; cases h; exact .inr (.inl ⟨w, rest, hi, hf, rfl⟩)
    · rw [ha] at h; exact .inr (.inr (.inl ⟨w, rest, i, hi, hf, hd, h⟩))
    · rw [ha] at h; cases h; exact .inr (.inr (.inr (.inl ⟨w, rest, r, hi, hf, hd, rfl⟩)))
  · rw [hs] at h; cases h; exact .inr (.inr (.inr (.inr ⟨c, rest, hi, rfl⟩)))

end Sys2Proof.Machine
end

