-- ==== Sys2Proof/Tests/Slice0.lean ====
section
/-! SUPPORT. Tests/Slice0.lean: the model's own tests (expected values from the rules and vectors of
spec/ named beside them) and, for each statement with hypotheses, a witness that meets them. -/

open Sys2Proof Sys2Proof.Machine Sys2Proof.Claims

namespace Sys2Proof.Tests

/-! ## Small states -/

/-- The state after the command, if it answers one. -/
def after (i : Instr) (s : State) : Option State :=
  match exec i s with
  | .next t => some t
  | .fault _ => none
  | .refused _ => none

/-- The state after the command word, if it answers one. -/
def afterWord (w : Word) (s : State) : Option State :=
  match acceptCommand w s with
  | .next t => some t
  | .fault _ => none
  | .refused _ => none

/-- The reset state with one command word issued. -/
def issued (w : Word) : State := { State.reset with inputs := [.command w] }

/-- 95_test_vectors.md V-DB-8: 16 inputs, alias mode, STABLE_INIT 0F 00. -/
def aliasConfig : Config :=
  { Config.reference with inputCount := 16, aliasMode := true, stableInit := [0x0F, 0x00] }

/-- 95_test_vectors.md V-DB-7 before its tick: inputs 0, 7 and 8 raw 1, changing, count 1. -/
def aboutToReport : State :=
  { State.resetWith
      { Config.reference with inputCount := 16, stableInit := [0, 0], onCount := 1, offCount := 1 } with
    raw := [0x81, 0x01], chg := [0x81, 0x01], cnt := [1, 0, 0, 0, 0, 0, 0, 1, 1, 0, 0, 0, 0, 0, 0, 0] }

/-- One input changing back to its stable level, count 1 (41_debouncer.md R131). -/
def flickered : State := { State.reset with chg := [0x01], cnt := [1, 0, 0, 0, 0, 0, 0, 0] }

/-- Armed at 1000 (95_test_vectors.md V-RX-4). -/
def armed : State := { State.reset with rxState := .awaitStart, rxMark := 1000 }

/-- A header with the `to` byte 05 taken at 100 (95_test_vectors.md E2). -/
def headerFrom : State :=
  { State.reset with rxState := .header, rxMark := 100, rxPos := 1, rxBuf := [(2, 0x05)], rxAcc := 0x05 }

/-- A header with the bytes 05 02 taken, the last at 108 (95_test_vectors.md V-RX-3). -/
def headerLen : State :=
  { State.reset with
    rxState := .header, rxMark := 108, rxPos := 2, rxBuf := [(2, 0x05), (3, 0x02)], rxAcc := 0x07 }

/-- A frame of one payload byte, none of it received: FF 07 01 (95_test_vectors.md V-RX-8). -/
def inPayload : State :=
  { State.reset with
    rxState := .payload, rxMark := 2, rxLen := 1, rxBuf := [(1, 0x01), (2, 0xFF), (3, 0x07)], rxAcc := 0xF9 }

/-- The frame 09 07 00 before its checksum byte (95_test_vectors.md V-RX-9). -/
def inChecksum : State :=
  { State.reset with
    rxState := .checksum, rxMark := 2, rxBuf := [(2, 0x09), (3, 0x07)], rxAcc := 0x0E }

/-- The block halted by the all-zero word (95_test_vectors.md V-DEC-23). -/
def halted : State := { State.reset with fault := some .illegalCommand }

/-- A running block under CRC16 with the accumulator given. -/
def crcState (acc : Half) : State := { State.resetWith (crcConfig 0) with txAcc := acc }

/-! ## Well-formed commands: each check refuses an ill-formed one (30_encoding.md R86) -/

theorem test_wellFormed_slot : Instr.wellFormed Config.reference (.tmMark 3) = true
    ∧ Instr.wellFormed Config.reference (.tmMark 4) = false
    ∧ Instr.wellFormed Config.reference (.tmElapsed 4 0) = false := by decide

theorem test_wellFormed_byteIndex : Instr.wellFormed Config.reference (.dbRdstable 0) = true
    ∧ Instr.wellFormed Config.reference (.dbRdstable 1) = false
    ∧ Instr.wellFormed Config.reference (.dbSample 0xFFFF 1) = false
    ∧ Instr.wellFormed Config.reference (.dbWrstable 5 1) = false := by decide

theorem test_wellFormed_offset : Instr.wellFormed Config.reference (.rxRdbuf 31) = true
    ∧ Instr.wellFormed Config.reference (.rxRdbuf 32) = false := by decide

/-! ## Decoding: op in bits 31..24, a in bits 23..16, b in bits 15..0, written out from 30_encoding.md
R80, R82 and R87 -/

theorem test_decode_tmSet :
    decodeTableWord 32 0b00000001000000000000000001100100 = some (.tmSet 100) := by decide

theorem test_decode_tmMark :
    decodeTableWord 32 0b00000010000000110000000000000000 = some (.tmMark 3) := by decide

theorem test_decode_tmElapsed :
    decodeTableWord 32 0b00000011000000100000001111101000 = some (.tmElapsed 2 1000) := by decide

theorem test_decode_dbSample :
    decodeTableWord 32 0b00010000101001010000000000000011 = some (.dbSample 3 0xA5) := by decide

theorem test_decode_dbTick :
    decodeTableWord 32 0b00010001000000000000000000000000 = some .dbTick := by decide

theorem test_decode_dbRdstable :
    decodeTableWord 32 0b00010010000000000000000000000001 = some (.dbRdstable 1) := by decide

theorem test_decode_dbWrstable :
    decodeTableWord 32 0b00010011111100000000000000000010 = some (.dbWrstable 2 0xF0) := by decide

theorem test_decode_ckInit :
    decodeTableWord 32 0b00100000000000000000000000000000 = some .ckInit := by decide

theorem test_decode_ckUpdate :
    decodeTableWord 32 0b00100001110111100000000000000000 = some (.ckUpdate 0xDE) := by decide

theorem test_decode_ckRead :
    decodeTableWord 32 0b00100010000000000000000000000000 = some .ckRead := by decide

theorem test_decode_ckVerify :
    decodeTableWord 32 0b00100011000000000011000111000011 = some (.ckVerify 0x31C3) := by decide

theorem test_decode_rxArm :
    decodeTableWord 32 0b00110000000000001111111111110000 = some (.rxArm 0xFFF0) := by decide

theorem test_decode_rxByte :
    decodeTableWord 32 0b00110001000001010000000001100100 = some (.rxByte 0x05 100) := by decide

theorem test_decode_rxPoll :
    decodeTableWord 32 0b00110010000000000000001111111100 = some (.rxPoll 1020) := by decide

theorem test_decode_rxStatus :
    decodeTableWord 32 0b00110011000000000000000000000000 = some .rxStatus := by decide

theorem test_decode_rxClrerr :
    decodeTableWord 32 0b00110100000000000000000000000000 = some .rxClrerr := by decide

theorem test_decode_rxRdbuf :
    decodeTableWord 32 0b00110101000000000000000000011111 = some (.rxRdbuf 31) := by decide

/-- 95_test_vectors.md V-DEC-1 to V-DEC-4. -/
theorem test_decode_illegal : [0x00000000#32, 0x04000000#32, 0x40000000#32, 0xFF000000#32].map decode
    = List.replicate 4 (.error .illegalCommand) := by rfl

/-- 95_test_vectors.md V-DEC-5 to V-DEC-13, and V-DEC-20: the reserved field comes before the index. -/
theorem test_decode_reserved : [0x11000001#32, 0x11010000#32, 0x20000001#32, 0x12010000#32,
      0x02000001#32, 0x01010000#32, 0x21000001#32, 0x23010000#32, 0x33000001#32, 0x34010000#32,
      0x32010000#32, 0x30010000#32, 0x35010000#32, 0x12010005#32].map decode
    = List.replicate 14 (.error .reservedField) := by rfl

/-- The first instruction after reset, as the host places it. -/
theorem test_step_runs_placed_word :
    step (State.reset.withFetchWord 32 0x10010000) = exec (.dbSample 0 1) State.reset := by rfl

/-! ## The assembler (30_encoding.md R87, R88) -/

theorem test_assemble_comment : assembleWords "DB_SAMPLE 3, 0xA5 ; raw" = some [0x10A50003] := by decide

theorem test_assemble_too_wide :
    assembleWords "TM_SET 65536" = none ∧ assembleWords "CK_UPDATE 0x100" = none := by decide

/-- 95_test_vectors.md P2 line 9 (its first words), with a wrap of the time. -/
theorem test_assemble_rxStream :
    assembleWords "RX_STREAM 0xFFFF, 1, 5, 6" = some [0x3105FFFF, 0x31060000] := by decide

theorem test_assemble_ckBlock :
    assembleWords "CK_BLOCK 1, 7" = some [0x20000000, 0x21010000, 0x21070000, 0x22000000] := by decide

/-! ## One command each -/

/-- 40_timer.md R101. -/
theorem test_tmSet : (after (.tmSet 0xFFF0) State.reset).map (·.now) = some 0xFFF0 := by decide

/-- 40_timer.md R102. -/
theorem test_tmMark : (after (.tmMark 1) { State.reset with now := 0xFFF0 }).map (·.mark)
    = some [0, 0xFFF0, 0, 0] := by decide

/-- 40_timer.md R103: the gap across the wrap is 0x15. -/
theorem test_tmElapsed_due :
    (after (.tmElapsed 0 0x15) { State.reset with now := 5, mark := [0xFFF0, 0, 0, 0] }).map
      (fun t => (t.response, t.mark)) = some (some 1, [5, 0, 0, 0]) := by decide

theorem test_tmElapsed_notDue :
    (after (.tmElapsed 0 0x16) { State.reset with now := 5, mark := [0xFFF0, 0, 0, 0] }).map
      (fun t => (t.response, t.mark)) = some (some 0, [0xFFF0, 0, 0, 0]) := by decide

/-- 41_debouncer.md R121. -/
theorem test_dbSample : (after (.dbSample 0 0x01) State.reset).map (fun t => (t.raw, t.chg, t.cnt))
    = some ([0x01], [0x01], [4, 0, 0, 0, 0, 0, 0, 0]) := by decide

/-- 95_test_vectors.md V-DB-6: bits 4 to 7 are padding with N = 4. -/
theorem test_dbSample_padding :
    (after (.dbSample 0 0xF3) (State.resetWith { Config.reference with inputCount := 4 })).map
      (·.raw) = some [0x03] := by decide

/-- 95_test_vectors.md V-DB-7: the order of the events. -/
theorem test_dbTick : (after .dbTick aboutToReport).map (·.ev) = some [.dbChange 0 true,
    .dbChange 7 true, .dbByte 0 0x81 0x81, .dbChange 8 true, .dbByte 1 0x01 0x01] := by decide

/-- 41_debouncer.md R131. -/
theorem test_dbTick_sameLevel : (after .dbTick flickered).map (·.ev)
    = some [.dbChange 0 false, .dbByte 0 0x00 0x01] := by decide

/-- 41_debouncer.md R123: N = 12, the upper bits of the last byte are padding. -/
theorem test_dbRdstable :
    (after (.dbRdstable 1) { State.resetWith { Config.reference with inputCount := 12, stableInit := [0, 0] } with
      stable := [0x00, 0x0F] }).map (·.response) = some (some 0x000F) := by decide

/-- 41_debouncer.md R124. -/
theorem test_dbWrstable :
    (after (.dbWrstable 0 0xF0) (State.resetWith aliasConfig)).map (·.stable)
      = some [0xF0, 0x00] := by decide

/-- 95_test_vectors.md V-DB-10. -/
theorem test_dbWrstable_notAlias : (after (.dbWrstable 0 0xF0) State.reset).map
    (fun t => (t.fault, t.faultWord)) = some (some .notAliasMode, 0x13F00000) := by decide

/-- 42_checksum.md R165. -/
theorem test_ckInit : (after .ckInit { State.resetWith (crcConfig 0xFFFF) with txAcc := 1 }).map
    (·.txAcc) = some 0xFFFF := by decide

/-- 42_checksum.md R166. -/
theorem test_ckUpdate_xor : (after (.ckUpdate 0x03) { State.reset with txAcc := 0x0007 }).map
    (·.txAcc) = some 0x0004 := by decide

/-- 95_test_vectors.md V-CK-5. -/
theorem test_ckUpdate_crc : (after (.ckUpdate 0x80) (crcState 0)).map (·.txAcc) = some 0x9188 := by
  decide

/-- 42_checksum.md R167. -/
theorem test_ckRead : (after .ckRead (crcState 0x31C3)).map (·.response) = some (some 0x31C3) := by
  decide

/-- 95_test_vectors.md V-CK-1: XOR8 ignores the high byte. -/
theorem test_ckVerify_xor : (after (.ckVerify 0xFF04) { State.reset with txAcc := 0x0004 }).map
    (·.response) = some (some 1) := by decide

/-- 42_checksum.md R168. -/
theorem test_ckVerify_crc : (after (.ckVerify 0x31C4) (crcState 0x31C3)).map (·.response)
    = some (some 0) := by decide

/-- 43_receiver.md R191. -/
theorem test_rxArm : (after (.rxArm 1000) State.reset).map (fun t => (t.rxState, t.rxMark))
    = some (.awaitStart, 1000) := by decide

/-- 95_test_vectors.md V-RX-15. -/
theorem test_rxArm_notIdle : (after (.rxArm 1) armed).map (fun t => (t.fault, t.faultWord))
    = some (some .armNotIdle, 0x30000001) := by decide

/-- 95_test_vectors.md V-RX-3: the byte at 117 is 9 units late. -/
theorem test_rxByte_late : (after (.rxByte 0x03 117) headerLen).map
    (fun t => (t.ev, t.rxBuf)) = some ([.rxError .errTimeout], [(2, 0x03), (3, 0x02)]) := by decide

/-- 95_test_vectors.md V-RX-9. -/
theorem test_rxByte_delivers : (after (.rxByte 0x0E 3) inChecksum).map (·.ev)
    = some [.rxFrame 0x09 0x07 0 [] false] := by decide

/-- 95_test_vectors.md V-RX-4. -/
theorem test_rxPoll_within : (after (.rxPoll 1030) armed).map (·.rxState) = some .awaitStart := by
  decide

theorem test_rxPoll_late : (after (.rxPoll 1031) armed).map (fun t => (t.rxState, t.ev))
    = some (.idle, [.rxError .errTimeoutStart]) := by decide

/-- 95_test_vectors.md V-RX-3. -/
theorem test_rxStatus : (after .rxStatus { State.reset with
    rxState := .header, lastErr := .errTimeout, errFlags := 0b00100 }).map (·.response)
    = some (some 0x041A) := by decide

/-- 95_test_vectors.md V-RX-13: the status was 0x1828. -/
theorem test_rxClrerr : (after .rxClrerr { State.reset with
    lastErr := .errUnexpected, errFlags := 0b11000 }).map statusWord = some 0x0000 := by decide

/-- 43_receiver.md R204. -/
theorem test_rxRdbuf : (after (.rxRdbuf 4) { State.reset with rxBuf := [(4, 0x10)] }).map
    (·.response) = some (some 0x0010) := by decide

/-- 95_test_vectors.md V-DEC-17. -/
theorem test_rxRdbuf_range : (after (.rxRdbuf 32) State.reset).map (fun t => (t.fault, t.faultWord))
    = some (some .indexRange, 0x35000020) := by decide

/-- 95_test_vectors.md V-RST-3 to V-RST-10. -/
theorem test_badConfig : ∀ c ∈ [{ Config.reference with onCount := 0 },
      { Config.reference with onCount := 16 }, { Config.reference with recvBufferSize := 3 },
      { Config.reference with recvBufferSize := 260 }, { Config.reference with busId := 0xFF },
      { Config.reference with timerSlots := 0 },
      { Config.reference with inputCount := 0, stableInit := [] },
      { Config.reference with aliasMode := true, stableInit := [0x00, 0x00] }],
    (State.resetWith c).fault = some .badConfig := by decide

/-! ## Witnesses: states and operands that meet the hypotheses of the statements -/

theorem reset_shaped : State.reset.Shaped := ⟨rfl, rfl, rfl, rfl, rfl⟩

theorem aboutToReport_shaped : aboutToReport.Shaped := ⟨rfl, rfl, rfl, rfl, rfl⟩

theorem alias_shaped : (State.resetWith aliasConfig).Shaped := ⟨rfl, rfl, rfl, rfl, rfl⟩

/-- A byte array of one zero byte reads 0 everywhere. -/
theorem oneZeroByte (i : Nat) : bitRead [0#8] i = false := bitRead_replicate_zero 1 i

theorem issued_debouncerSound (w : Word) : debouncerSound (issued w) := by
  refine ⟨.inl (show configLegal Config.reference = true by decide), reset_shaped, fun i _ => ?_,
    fun i hi => ?_⟩
  · exact ⟨oneZeroByte i, oneZeroByte i, oneZeroByte i⟩
  · refine ⟨fun h => ?_, fun _ => ?_, fun _ _ => ?_⟩
    · exact absurd h (by rw [show (issued w).readChg i = false from oneZeroByte i]; decide)
    · have h8 : i < 8 := hi
      interval_cases i <;> rfl
    · exact (oneZeroByte i).trans (oneZeroByte i).symm

theorem issued_receiverSound (w : Word) : receiverSound (issued w) :=
  ⟨rfl, ⟨rfl, fun _ _ => rfl, rfl, fun h => by cases h⟩, show 0#5 &&& 0#5 = 0#5 from rfl⟩

theorem inPayload_receiverSound : receiverSound inPayload := by
  refine ⟨⟨by decide, by decide, by decide, rfl⟩, ⟨by decide, fun off hoff => ?_, by decide, fun h => by cases h⟩,
    show 0#5 &&& 0#5 = 0#5 from rfl⟩
  have h32 : 32 ≤ off := hoff
  have h1 : ¬ 1 = off := by omega
  have h2 : ¬ 2 = off := by omega
  have h3 : ¬ 3 = off := by omega
  simp [State.readBuf, inPayload, memRead, h1, h2, h3, unlistedByte]

theorem witness_EncodeDecodeAgree : decode 0x10A50003 = .ok (.dbSample 3 0xA5) := by decide

theorem witness_EncodingExamples : State.reset.fault = none := by decide

theorem witness_IllegalOpcodeFaults (w : Word) (hw : w = 0 ∨ w = 0x04000000 ∨ w = 0xFFFFFFFF) :
    State.reset.fault = none ∧ w.toNat / 2 ^ 24 ∉ opcodes := by
  rcases hw with rfl | rfl | rfl <;> exact ⟨rfl, by decide⟩

theorem witness_ReservedFieldFaults :
    State.reset.fault = none
      ∧ ((0x11010000#32).toNat / 2 ^ 24 ∈ aReservedOpcodes ∧ (0x11010000#32).toNat / 2 ^ 16 % 256 ≠ 0)
      ∧ ((0x02000001#32).toNat / 2 ^ 24 ∈ bReservedOpcodes ∧ (0x02000001#32).toNat % 2 ^ 16 ≠ 0) := by
  decide

theorem witness_StepRunsDecodedCommand : (issued 0x01000064).fault = none
    ∧ (issued 0x01000064).inputs = [.command 0x01000064] ∧ decode 0x01000064 = .ok (.tmSet 100) := by
  decide

theorem witness_HaltedBlockPerformsNothing : halted.fault ≠ none := by decide

theorem witness_StepConsumesOneInput : State.reset.inputs = []
    ∧ { halted with inputs := [.reset Config.reference] }.inputs = [.reset Config.reference] := by decide

theorem witness_ResetEstablishesResetValues :
    3 < Config.reference.timerSlots ∧ 7 < Config.reference.inputCount
      ∧ 31 < Config.reference.recvBufferSize ∧ Config.reference.aliasMode = false
      ∧ (0#16).toNat < (Config.reference.inputCount + 7) / 8 := by decide

theorem witness_BadConfigExactly : (State.resetWith Config.reference).fault = none
    ∧ (State.resetWith { Config.reference with
        recvBufferSize := 259, busId := 254, timerSlots := 256, onCount := 15, offCount := 1
        tStart := 65535, tGap := 0, crcInit := 65535 }).fault = none
    ∧ Config.reference.aliasMode = false := by decide

theorem witness_StepKeepsDebouncerSound : debouncerSound (issued 0x10010000)
    ∧ ∃ t, step (issued 0x10010000) = .next t ∧ t.chg = [0x01] :=
  ⟨issued_debouncerSound _, _, rfl, by decide⟩

theorem witness_StepKeepsReceiverSound : receiverSound (issued 0x31050064)
    ∧ ∃ t, step (issued 0x31050064) = .next t ∧ t.rxState = .header :=
  ⟨issued_receiverSound _, _, rfl, by decide⟩

theorem witness_StepKeepsFaultRecord : (issued 0x35000020).FaultRecord
    ∧ ∃ t, step (issued 0x35000020) = .next t ∧ t.fault = some .indexRange :=
  ⟨rfl, _, rfl, by decide⟩

theorem witness_StepKeepsEventsLegal :
    { aboutToReport with inputs := [.command 0x11000000] }.EventsLegal
    ∧ ∃ t, step { aboutToReport with inputs := [.command 0x11000000] } = .next t ∧ t.ev.length = 5 :=
  ⟨(fun e he => by cases he), _, rfl, by decide⟩

theorem witness_StepKeepsXorRegistersBytes : (issued 0x21FF0000).XorRegistersAreBytes
    ∧ ∃ t, step (issued 0x21FF0000) = .next t ∧ t.txAcc = 0x00FF :=
  ⟨fun _ => by decide, _, rfl, by decide⟩

theorem witness_EventStreamAppendOnly :
    ∃ t, step { aboutToReport with inputs := [.command 0x11000000] } = .next t ∧ t.ev ≠ [] :=
  ⟨_, rfl, by decide⟩

theorem witness_RegistersWrittenOnlyByTheirCommands :
    (∃ t, exec (.tmSet 5) State.reset = .next t ∧ t.now ≠ State.reset.now)
      ∧ (∃ t, exec .dbTick aboutToReport = .next t ∧ t.stable ≠ aboutToReport.stable)
      ∧ ∃ t, exec (.rxByte 5 100) State.reset = .next t ∧ t.rxBuf ≠ State.reset.rxBuf :=
  ⟨⟨_, rfl, by decide⟩, ⟨_, rfl, by decide⟩, _, rfl, by decide⟩

theorem witness_FaultChangesNothingElse : State.reset.fault = none
    ∧ ∃ t, acceptCommand 0x12000001 State.reset = .next t ∧ t.fault = some .indexRange :=
  ⟨rfl, _, rfl, rfl⟩

theorem witness_FaultCausesExact : State.reset.fault = none ∧ faultOf (.tmMark 3) State.reset = none
    ∧ faultOf (.tmMark 4) State.reset = some .indexRange
    ∧ faultOf (.dbWrstable 0 1) State.reset = some .notAliasMode
    ∧ faultOf (.dbWrstable 1 1) State.reset = some .indexRange
    ∧ faultOf (.rxArm 1) armed = some .armNotIdle := by decide

theorem witness_HiddenStateDoesNotShow : sameVisible State.reset { State.reset with raw := [0x01] }
    ∧ (∃ s', exec .dbTick State.reset = .next s')
    ∧ ∃ u', exec .dbTick { State.reset with raw := [0x01] } = .next u' :=
  ⟨⟨rfl, rfl, rfl, rfl, rfl, rfl, rfl, rfl, rfl⟩, ⟨_, rfl⟩, _, rfl⟩

/-- The words of the statements `Issues`: for every row a word with its reserved fields clear, and for
every reserved field a word with it set. -/
theorem witness_Issues :
    State.reset.fault = none
      ∧ (∀ p ∈ [(0x0100FFFF#32, 0x01), (0x02FF0000#32, 0x02), (0x03FFFFFF#32, 0x03), (0x10FFFFFF#32, 0x10),
            (0x11000000#32, 0x11), (0x1200FFFF#32, 0x12), (0x13FFFFFF#32, 0x13), (0x20000000#32, 0x20),
            (0x21FF0000#32, 0x21), (0x22000000#32, 0x22), (0x2300FFFF#32, 0x23), (0x3000FFFF#32, 0x30),
            (0x31FFFFFF#32, 0x31), (0x3200FFFF#32, 0x32), (0x33000000#32, 0x33), (0x34000000#32, 0x34),
            (0x3500FFFF#32, 0x35)],
          p.1.toNat / 2 ^ 24 = p.2
            ∧ (p.2 ∈ aReservedOpcodes → p.1.toNat / 2 ^ 16 % 256 = 0)
            ∧ (p.2 ∈ bReservedOpcodes → p.1.toNat % 2 ^ 16 = 0))
      ∧ (∀ op ∈ aReservedOpcodes, (BitVec.ofNat 32 (op * 2 ^ 24 + 0x10000)).toNat / 2 ^ 24 = op
          ∧ (BitVec.ofNat 32 (op * 2 ^ 24 + 0x10000)).toNat / 2 ^ 16 % 256 ≠ 0)
      ∧ ∀ op ∈ bReservedOpcodes, (BitVec.ofNat 32 (op * 2 ^ 24 + 1)).toNat / 2 ^ 24 = op
          ∧ (BitVec.ofNat 32 (op * 2 ^ 24 + 1)).toNat % 2 ^ 16 ≠ 0 := by decide

theorem witness_TmMarkResult : State.reset.Shaped ∧ (3#8).toNat < State.reset.cfg.timerSlots
    ∧ State.reset.cfg.timerSlots ≤ (4#8).toNat :=
  ⟨reset_shaped, by decide, by decide⟩

theorem witness_TmElapsedResult : State.reset.Shaped ∧ (3#8).toNat < State.reset.cfg.timerSlots
    ∧ (0#16).toNat ≤ gap State.reset.now (State.reset.readMark 3)
    ∧ gap State.reset.now (State.reset.readMark 3) < (1#16).toNat
    ∧ State.reset.cfg.timerSlots ≤ (4#8).toNat :=
  ⟨reset_shaped, by decide, by decide, by decide, by decide⟩

theorem witness_WrapAroundGap : 0 ≤ 65535 ∧ 65535 - 0 < 65536 ∧ ¬ 65536 - 0 < 65536 := by decide

theorem witness_ElapsedReArms : State.reset.Shaped
    ∧ ∃ u v, exec (.tmElapsed 0 0) State.reset = .next u ∧ u.response = some 1
      ∧ exec (.tmElapsed 0 0) { u with now := 7 } = .next v :=
  ⟨reset_shaped, _, _, rfl, rfl, rfl⟩

theorem witness_DbSampleResult : State.reset.Shaped
    ∧ (0#16).toNat < (State.reset.cfg.inputCount + 7) / 8
    ∧ (State.reset.cfg.inputCount + 7) / 8 ≤ (1#16).toNat
    ∧ (8 * (0#16).toNat ≤ 7 ∧ 7 < 8 * (0#16).toNat + 8) ∧ 7 < State.reset.cfg.inputCount
    ∧ (0x80#8).getLsbD (7 - 8 * (0#16).toNat) ≠ State.reset.readRaw 7 :=
  ⟨reset_shaped, by decide, by decide, by decide, by decide, by decide⟩

theorem witness_DbTickResult : aboutToReport.Shaped ∧ 8 < aboutToReport.cfg.inputCount
    ∧ aboutToReport.readChg 8 = true ∧ aboutToReport.readCnt 8 = 1 ∧ aboutToReport.readChg 9 = false :=
  ⟨aboutToReport_shaped, by decide, by decide, by decide, by decide⟩

theorem witness_EdgeFilterMachine : aboutToReport.Shaped ∧ 8 < aboutToReport.cfg.inputCount
    ∧ (8 * (1#16).toNat ≤ 8 ∧ 8 < 8 * (1#16).toNat + 8)
    ∧ (aboutToReport.readChg 8 = true ∧ aboutToReport.readCnt 8 = 1)
    ∧ (aboutToReport.readChg 9 = false ∧ aboutToReport.readCnt 9 = 0)
    ∧ ({ aboutToReport with cnt := [2] }.readChg 0 = true
        ∧ 2 ≤ ({ aboutToReport with cnt := [2] }.readCnt 0).toNat) :=
  ⟨aboutToReport_shaped, by decide, by decide, by decide, by decide, by decide⟩

theorem witness_DbRdstableResult : (0#16).toNat < (State.reset.cfg.inputCount + 7) / 8
    ∧ (State.reset.cfg.inputCount + 7) / 8 ≤ (1#16).toNat := by decide

theorem witness_DbWrstableResult : (State.resetWith aliasConfig).Shaped
    ∧ (1#16).toNat < ((State.resetWith aliasConfig).cfg.inputCount + 7) / 8
    ∧ (State.resetWith aliasConfig).cfg.aliasMode = true
    ∧ ((State.resetWith aliasConfig).cfg.inputCount + 7) / 8 ≤ (2#16).toNat
    ∧ State.reset.Shaped ∧ (0#16).toNat < (State.reset.cfg.inputCount + 7) / 8
    ∧ State.reset.cfg.aliasMode = false :=
  ⟨alias_shaped, by decide, by decide, by decide, reset_shaped, by decide, by decide⟩

theorem witness_QuietTickChangesNothing :
    ∀ i, i < State.reset.cfg.inputCount → State.reset.readChg i = false := fun i _ => oneZeroByte i

theorem witness_DebounceStability : debouncerSound (issued 0) ∧ (issued 0).fault = none
    ∧ 7 < (issued 0).cfg.inputCount ∧ 8 * (0#16).toNat ≤ 7 ∧ 7 < 8 * (0#16).toNat + 8
    ∧ (0x80#8).getLsbD (7 - 8 * (0#16).toNat) ≠ (issued 0).readRaw 7
    ∧ (∀ c ∈ [Instr.dbTick, .dbTick, .dbTick, .dbTick], keepsRaw 7 true c)
    ∧ ticksIn [Instr.dbTick, .dbTick, .dbTick] < count (issued 0).cfg true
    ∧ ticksIn [Instr.dbTick, .dbTick, .dbTick, .dbTick] = count (issued 0).cfg true
    ∧ ∃ s₁ t u, exec (.dbSample 0 0x80) (issued 0) = .next s₁
      ∧ execAll [.dbTick, .dbTick, .dbTick, .dbTick] s₁ = .next t ∧ t.fault = none
      ∧ execAll [.dbTick, .dbTick, .dbTick] s₁ = .next u ∧ u.fault = none := by
  refine ⟨issued_debouncerSound 0, rfl, by decide, by decide, by decide, by decide, ?_, by decide,
    by decide, _, _, _, rfl, rfl, rfl, rfl, rfl⟩
  intro c hc
  simp only [List.mem_cons, List.not_mem_nil, or_false, or_self] at hc
  rw [hc]
  trivial

theorem witness_SampleOrderImmaterial : aboutToReport.Shaped ∧ (0#16) ≠ 1#16
    ∧ (0#16).toNat < (aboutToReport.cfg.inputCount + 7) / 8
    ∧ (1#16).toNat < (aboutToReport.cfg.inputCount + 7) / 8 :=
  ⟨aboutToReport_shaped, by decide, by decide, by decide⟩

/-- Two states that agree on input 0 and differ on input 8. -/
theorem witness_InputsIndependent : aboutToReport.Shaped
    ∧ State.Shaped { aboutToReport with raw := [0x81, 0x00] }
    ∧ 0 < aboutToReport.cfg.inputCount
    ∧ filterState aboutToReport 0 = filterState { aboutToReport with raw := [0x81, 0x00] } 0
    ∧ filterState aboutToReport 8 ≠ filterState { aboutToReport with raw := [0x81, 0x00] } 8
    ∧ changesOf 0 aboutToReport.ev = changesOf 0 { aboutToReport with raw := [0x81, 0x00] }.ev
    ∧ (∃ s', exec .dbTick aboutToReport = .next s')
    ∧ ∃ u', exec .dbTick { aboutToReport with raw := [0x81, 0x00] } = .next u' :=
  ⟨aboutToReport_shaped, ⟨rfl, rfl, rfl, rfl, rfl⟩, by decide, by decide, by decide, by decide,
    ⟨_, rfl⟩, _, rfl⟩

theorem witness_XorVerdictsAgree : Config.reference.ckPolicy = .xor8 ∧ (0x00FF#16).toNat < 256 := by
  decide

theorem witness_CkBlockComputesFrameChecksum : ([0x10, 0x20, 0x30] : List Byte).length ≤ 255 := by decide

theorem witness_FrameRecordLayout :
    ([0x10, 0x20, 0x30] : List Byte).length ≤ 255
      ∧ encodeFrame Config.reference 5 2 [0x10] = some [5, 2, 1, 0x10, 0x16]
      ∧ (CommFrame.mk 0xFF 5 2 []).retryCount = 0xFF ∧ (CommFrame.mk 0xFE 5 2 []).retryCount ≠ 0xFF := by
  decide

theorem witness_RxArmResult : State.reset.rxState = .idle ∧ armed.rxState ≠ .idle := by decide

theorem witness_RxByteFrame : 0 ∉ storedOffsets 100 headerFrom ∧ 3 ∈ storedOffsets 100 headerFrom := by
  decide

theorem witness_RxByteStartsFrame :
    bufferReady State.reset ∧ startsFrame 100 State.reset = true
      ∧ bufferReady armed ∧ startsFrame 1030 armed = true ∧ startsFrame 1031 armed = true
      ∧ bufferReady headerLen ∧ startsFrame 117 headerLen = true ∧ startsFrame 116 headerLen = false := by
  refine ⟨⟨by decide, rfl⟩, by decide, ⟨by decide, rfl⟩, by decide, by decide, ⟨by decide, by decide⟩,
    by decide, by decide⟩

theorem witness_RxByteDropped :
    { armed with cfg := { Config.reference with idleBytePolicy := .unexpected } }.cfg.idleBytePolicy
        = .unexpected
      ∧ armed.rxState = .awaitStart ∧ armed.cfg.tStart < gap 1031 armed.rxMark
      ∧ State.reset.rxState = .idle
      ∧ headerLen.rxState = .header ∧ headerLen.cfg.tGap < gap 117 headerLen.rxMark := by decide

theorem witness_RxByteHeader : bufferReady headerFrom ∧ headerFrom.rxState = .header
    ∧ gap 108 headerFrom.rxMark ≤ headerFrom.cfg.tGap ∧ headerFrom.rxPos = 1
    ∧ bufferReady headerLen ∧ headerLen.rxState = .header
    ∧ gap 116 headerLen.rxMark ≤ headerLen.cfg.tGap ∧ headerLen.rxPos = 2 := by
  refine ⟨⟨by decide, by decide⟩, by decide, by decide, by decide, ⟨by decide, by decide⟩, by decide,
    by decide, by decide⟩

theorem witness_RxBytePayload : receiverSound inPayload ∧ inPayload.rxState = .payload
    ∧ gap 10 inPayload.rxMark ≤ inPayload.cfg.tGap ∧ inPayload.rxPos.toNat + 1 = inPayload.rxLen.toNat :=
  ⟨inPayload_receiverSound, by decide, by decide, by decide⟩

theorem witness_RxByteChecksum : inChecksum.rxState = .checksum
    ∧ gap 10 inChecksum.rxMark ≤ inChecksum.cfg.tGap ∧ lastChecksumByte inChecksum
    ∧ checksumVerify inChecksum.cfg (receivedChecksum 0x0E inChecksum) inChecksum.rxAcc = true
    ∧ checksumVerify inChecksum.cfg (receivedChecksum 0x0F inChecksum) inChecksum.rxAcc = false
    ∧ ¬ lastChecksumByte { inChecksum with cfg := crcConfig 0 } := by decide

theorem witness_ReceiverTransitions :
    (bufferReady State.reset ∧ State.reset.rxState = .idle)
      ∧ (bufferReady armed ∧ armed.rxState = .awaitStart ∧ gap 1030 armed.rxMark ≤ armed.cfg.tStart
          ∧ armed.cfg.tStart < gap 1031 armed.rxMark)
      ∧ (bufferReady headerFrom ∧ headerFrom.rxPos = 1 ∧ addrSane headerFrom.cfg (headerFrom.readBuf 2) 2 = true
          ∧ addrSane { headerFrom.cfg with insanePairs := [(5, 2)] } (headerFrom.readBuf 2) 2 = false)
      ∧ (bufferReady headerLen ∧ headerLen.rxPos = 2 ∧ (28#8).toNat + 4 ≤ headerLen.cfg.recvBufferSize
          ∧ headerLen.cfg.recvBufferSize < (29#8).toNat + 4)
      ∧ (bufferReady inPayload ∧ inPayload.rxPos + 1 = inPayload.rxLen
          ∧ { inPayload with rxLen := 2 }.rxPos + 1 ≠ { inPayload with rxLen := 2 }.rxLen)
      ∧ (bufferReady inChecksum ∧ inFrame inChecksum ∧ inChecksum.cfg.tGap < gap 11 inChecksum.rxMark) := by
  refine ⟨⟨⟨by decide, rfl⟩, by decide⟩, ⟨⟨by decide, rfl⟩, by decide, by decide, by decide⟩,
    ⟨⟨by decide, by decide⟩, by decide, by decide, by decide⟩,
    ⟨⟨by decide, by decide⟩, by decide, by decide, by decide⟩,
    ⟨⟨by decide, by decide⟩, by decide, by decide⟩, ⟨by decide, by decide⟩, by decide, by decide⟩

theorem witness_RxPollResult : State.reset.rxState = .idle ∧ armed.rxState = .awaitStart
    ∧ armed.cfg.tStart < gap 1031 armed.rxMark ∧ inFrame headerLen := by decide

theorem witness_RxRdbufResult : (31#16).toNat < State.reset.cfg.recvBufferSize
    ∧ State.reset.cfg.recvBufferSize ≤ (32#16).toNat := by decide

theorem witness_ReceiverEmitsAtMostOneEvent :
    (∃ v x, Instr.rxByte 0x0E 3 = .rxByte v x ∨ Instr.rxByte 0x0E 3 = .rxArm x
        ∨ Instr.rxByte 0x0E 3 = .rxPoll x ∨ Instr.rxByte 0x0E 3 = .rxStatus
        ∨ Instr.rxByte 0x0E 3 = .rxClrerr ∨ Instr.rxByte 0x0E 3 = .rxRdbuf x)
      ∧ ∃ t, exec (.rxByte 0x0E 3) inChecksum = .next t :=
  ⟨⟨0x0E, 3, .inl rfl⟩, _, rfl⟩

/-- Times 8 units apart, the widest gap within T_GAP. -/
def spacedTimes : List Half := [100, 108, 116, 124, 132, 140, 148]

theorem spacedTimes_within : gapsWithin Config.reference.tGap spacedTimes := by
  intro k hk
  have h6 : k < 6 := Nat.lt_of_succ_lt_succ hk
  interval_cases k <;> decide

theorem witness_ChecksumRoundTrip : configLegal State.reset.cfg = true ∧ memWf State.reset.rxBuf = true
    ∧ encodeFrame State.reset.cfg 5 2 [0x10, 0x20, 0x30] = some [5, 2, 3, 0x10, 0x20, 0x30, 4]
    ∧ ([0x10, 0x20, 0x30] : List Byte).length + 4 ≤ State.reset.cfg.recvBufferSize
    ∧ addrSane State.reset.cfg 5 2 = true ∧ spacedTimes.length = 7
    ∧ readyForFrame (spacedTimes.getD 0 0) State.reset
    ∧ readyForFrame (spacedTimes.getD 0 0) { armed with rxMark := 70 }
    ∧ gapsWithin State.reset.cfg.tGap spacedTimes :=
  ⟨by decide, rfl, by decide, by decide, by decide, rfl, .inl ⟨rfl, rfl⟩, .inr ⟨rfl, by decide⟩,
    spacedTimes_within⟩

/-- The hypotheses of ChecksumRoundTrip under CRC16, with the checksum of 42_checksum.md R175. -/
theorem witness_ChecksumRoundTrip_crc16 : configLegal (crcState 0).cfg = true
    ∧ memWf (crcState 0).rxBuf = true
    ∧ encodeFrame (crcState 0).cfg 5 2 [0x10, 0x20, 0x30] = some [5, 2, 3, 0x10, 0x20, 0x30, 0xEF, 0x88]
    ∧ ([0x10, 0x20, 0x30] : List Byte).length + 4 ≤ (crcState 0).cfg.recvBufferSize
    ∧ addrSane (crcState 0).cfg 5 2 = true ∧ (List.replicate 8 (100#16)).length = 8
    ∧ readyForFrame ((List.replicate 8 (100#16)).getD 0 0) (crcState 0)
    ∧ gapsWithin (crcState 0).cfg.tGap (List.replicate 8 (100#16)) := by
  refine ⟨by decide, by decide, by decide +kernel, by decide, by decide, rfl, .inl ⟨rfl, rfl⟩, ?_⟩
  intro k hk
  have h7 : k < 7 := Nat.lt_of_succ_lt_succ hk
  interval_cases k <;> decide

theorem witness_CorruptedByteReported : configLegal State.reset.cfg = true
    ∧ memWf State.reset.rxBuf = true ∧ State.reset.cfg.ckPolicy = .xor8
    ∧ encodeFrame State.reset.cfg 5 2 [0x10, 0x20, 0x30] = some [5, 2, 3, 0x10, 0x20, 0x30, 4]
    ∧ ([0x10, 0x20, 0x30] : List Byte).length + 4 ≤ State.reset.cfg.recvBufferSize
    ∧ (∀ k ∈ [0, 1, 3, 6], k < ([5, 2, 3, 0x10, 0x20, 0x30, 4] : List Byte).length ∧ k ≠ 2
        ∧ (0xEE : Byte) ≠ byteAt [5, 2, 3, 0x10, 0x20, 0x30, 4] k
        ∧ addrSane State.reset.cfg (byteAt (([5, 2, 3, 0x10, 0x20, 0x30, 4] : List Byte).set k 0xEE) 0)
            (byteAt (([5, 2, 3, 0x10, 0x20, 0x30, 4] : List Byte).set k 0xEE) 1) = true)
    ∧ spacedTimes.length = 7 ∧ readyForFrame (spacedTimes.getD 0 0) State.reset
    ∧ gapsWithin State.reset.cfg.tGap spacedTimes :=
  ⟨by decide, by decide, rfl, by decide, by decide, by decide, rfl, .inl ⟨rfl, rfl⟩, spacedTimes_within⟩

end Sys2Proof.Tests
end

/-! PROOFS. 10_state.md: what every command answers (effect, response, fault entry), what its loops and
procedures leave unchanged, and the statements settled from that: the registers' writers, the event
stream, the debouncer's invariants, the status word. -/

namespace Sys2Proof.Proofs

open Sys2Proof.Machine Sys2Proof.Claims

/-! ### What a command answers -/

/-- The state a command that does not fault leaves, the response port aside (10_state.md R23 to R42). -/
def effect (s : State) : Instr → State
  | .tmSet t => { s with now := t }
  | .tmMark slot => s.writeMark slot.toNat s.now
  | .tmElapsed slot d =>
    if d.toNat ≤ (gap16 s.now (s.readMark slot.toNat)).toNat then s.writeMark slot.toNat s.now else s
  | .dbSample j v => sampleByte j.toNat v s
  | .dbTick => tickAll s
  | .dbWrstable j v => writeStableByte j.toNat v s
  | .ckInit => { s with txAcc := checksumStart s.cfg }
  | .ckUpdate v => { s with txAcc := checksumFold s.cfg s.txAcc v }
  | .rxArm t => { s with rxState := .awaitStart, rxMark := t, rxPos := 0 }
  | .rxByte v t => receiveByte v t s
  | .rxPoll t => pollWindows t s
  | .rxClrerr => { s with errFlags := 0, lastErr := .errNone }
  | .dbRdstable _ | .ckRead | .ckVerify _ | .rxStatus | .rxRdbuf _ => s

/-- The response of a command that does not fault (10_state.md R43). -/
def answer (s : State) : Instr → Half
  | .tmElapsed slot d => if d.toNat ≤ (gap16 s.now (s.readMark slot.toNat)).toNat then 1 else 0
  | .dbRdstable j => (s.stableByte j.toNat).setWidth 16
  | .ckRead => s.txAcc
  | .ckVerify e => boolResponse (checksumVerify s.cfg e s.txAcc)
  | .rxStatus => statusWord s
  | .rxRdbuf k => (s.readBuf k.toNat).setWidth 16
  | .tmSet _ | .tmMark _ | .dbSample _ _ | .dbTick | .dbWrstable _ _ | .ckInit | .ckUpdate _
  | .rxArm _ | .rxByte _ _ | .rxPoll _ | .rxClrerr => 0

/-- No cause of an operand range check: the index is in range (60_exceptions.md R250). -/
theorem lt_of_rangeFault_none {size idx : Nat} {code : FaultCode}
    (h : (if size ≤ idx then some code else none) = none) : idx < size := by
  by_contra hle
  rw [if_pos (Nat.not_lt.1 hle)] at h
  cases h

/-- The cause of an operand range check: the index is out of range (60_exceptions.md R250). -/
theorem le_of_rangeFault_some {size idx : Nat} {code raised : FaultCode}
    (h : (if size ≤ idx then some code else none) = some raised) : size ≤ idx ∧ code = raised := by
  simpa using h

/-- DB_WRSTABLE completes only for a byte in range and under ALIAS_MODE (41_debouncer.md R124). -/
theorem completes_dbWrstable {j : Half} {v : Byte} {s : State}
    (h : faultOf (.dbWrstable j v) s = none) :
    j.toNat < byteCount s.cfg ∧ s.cfg.aliasMode = true := by
  simp only [faultOf] at h
  split at h
  · cases h
  · split at h
    · exact ⟨Nat.not_le.1 ‹_›, ‹_›⟩
    · cases h

/-- `exec` of a command with no cause of a fault (60_exceptions.md R250, R253). -/
theorem exec_of_faultOf_none {i : Instr} {s : State} (h : faultOf i s = none) :
    exec i s = .next { effect s i with response := some (answer s i) } := by
  cases i with
  | tmMark slot => exact exec_tmMark_inRange (lt_of_rangeFault_none h)
  | tmElapsed slot d =>
    have hin := lt_of_rangeFault_none h
    by_cases hd : d.toNat ≤ (gap16 s.now (s.readMark slot.toNat)).toNat
    · simp only [exec_tmElapsed_due hin hd, effect, answer, if_pos hd]
    · simp only [exec_tmElapsed_notDue hin hd, effect, answer, if_neg hd]
  | dbSample j v => exact exec_dbSample_inRange (lt_of_rangeFault_none h)
  | dbRdstable j => exact exec_dbRdstable_inRange (lt_of_rangeFault_none h)
  | dbWrstable j v =>
    obtain ⟨hin, halias⟩ := completes_dbWrstable h
    exact exec_dbWrstable_inRange hin halias
  | rxRdbuf k => exact exec_rxRdbuf_inRange (lt_of_rangeFault_none h)
  | rxArm t =>
    simp only [faultOf, ite_eq_left_iff, reduceCtorEq, imp_false, not_not] at h
    simp only [exec, execRxArm, if_pos h, respond, effect, answer]
  | tmSet _ | dbTick | ckInit | ckUpdate _ | ckRead | ckVerify _ | rxByte _ _ | rxPoll _ | rxStatus
  | rxClrerr => rfl

/-- `exec` of a command with a cause of a fault: fault entry (60_exceptions.md R251). -/
theorem exec_of_faultOf_some {i : Instr} {s : State} {code : FaultCode} (h : faultOf i s = some code) :
    FaultsWith code i s := by
  unfold FaultsWith
  cases i with
  | tmMark slot =>
    obtain ⟨hout, rfl⟩ := le_of_rangeFault_some h
    exact exec_tmMark_outOfRange hout
  | tmElapsed slot d =>
    obtain ⟨hout, rfl⟩ := le_of_rangeFault_some h
    exact exec_tmElapsed_outOfRange hout
  | dbSample j v =>
    obtain ⟨hout, rfl⟩ := le_of_rangeFault_some h
    exact exec_dbSample_outOfRange hout
  | dbRdstable j =>
    obtain ⟨hout, rfl⟩ := le_of_rangeFault_some h
    exact exec_dbRdstable_outOfRange hout
  | dbWrstable j v =>
    simp only [faultOf] at h
    split at h
    · cases h
      exact exec_dbWrstable_outOfRange ‹_›
    · split at h
      · cases h
      · cases h
        exact exec_dbWrstable_notAlias (Nat.not_le.1 ‹_›) (Bool.not_eq_true _ ▸ ‹_›)
  | rxRdbuf k =>
    obtain ⟨hout, rfl⟩ := le_of_rangeFault_some h
    exact exec_rxRdbuf_outOfRange hout
  | rxArm t =>
    simp only [faultOf, Option.ite_none_left_eq_some, Option.some.injEq] at h
    obtain ⟨hbusy, rfl⟩ := h
    simp only [exec, execRxArm, if_neg hbusy, takeFault]
  | tmSet _ | dbTick | ckInit | ckUpdate _ | ckRead | ckVerify _ | rxByte _ _ | rxPoll _ | rxStatus
  | rxClrerr => cases h

/-- Everything a command can answer: its effect and its response, or fault entry. -/
theorem exec_next_cases {i : Instr} {s t : State} (h : exec i s = .next t) :
    (faultOf i s = none ∧ t = { effect s i with response := some (answer s i) })
      ∨ ∃ code, faultOf i s = some code
        ∧ t = { s with fault := some code, faultWord := encode i, response := none } := by
  cases hf : faultOf i s with
  | none =>
    rw [exec_of_faultOf_none hf] at h
    cases h
    exact .inl ⟨rfl, rfl⟩
  | some code =>
    rw [exec_of_faultOf_some hf] at h
    cases h
    exact .inr ⟨code, rfl, rfl⟩

/-- What a running block does with the words of one row of the opcode map (30_encoding.md R82, R84). -/
theorem issues_of_row {op : Nat} {r : OpRow}
    (h : opMap.find? (fun r => r.op.toNat == op) = some r) :
    Issues op r.aReserved r.bReserved r.build := by
  intro w s hrun hop
  have hdec := decode_of_row (w := w) (by rw [hop]; exact h)
  have hperform : acceptCommand w s = performCommand w s := by simp [acceptCommand, hrun]
  rw [hperform, performCommand, hdec]
  split_ifs <;> rfl

/-! ### Appending legal records -/

/-- From s to t the configuration stays and EV grows by records of 10_state.md R42. -/
def AppendsLegal (s t : State) : Prop :=
  t.cfg = s.cfg ∧ ∃ new, t.ev = s.ev ++ new ∧ ∀ e ∈ new, eventLegal s.cfg e

namespace AppendsLegal

theorem silent {s t : State} (hcfg : t.cfg = s.cfg) (hev : t.ev = s.ev) : AppendsLegal s t :=
  ⟨hcfg, [], by rw [hev, List.append_nil], by simp⟩

theorem refl (s : State) : AppendsLegal s s := silent rfl rfl

theorem single {s t : State} {e : Event} (hcfg : t.cfg = s.cfg) (hev : t.ev = s.ev ++ [e])
    (he : eventLegal s.cfg e) : AppendsLegal s t :=
  ⟨hcfg, [e], hev, by simpa using he⟩

theorem trans {s t u : State} (h₁ : AppendsLegal s t) (h₂ : AppendsLegal t u) : AppendsLegal s u := by
  obtain ⟨hcfg₁, new₁, hev₁, hlegal₁⟩ := h₁
  obtain ⟨hcfg₂, new₂, hev₂, hlegal₂⟩ := h₂
  rw [hcfg₁] at hlegal₂
  exact ⟨hcfg₂.trans hcfg₁, new₁ ++ new₂, by rw [hev₂, hev₁, List.append_assoc],
    List.forall_mem_append.2 ⟨hlegal₁, hlegal₂⟩⟩

theorem eventsLegal {s t : State} (h : AppendsLegal s t) (hs : s.EventsLegal) : t.EventsLegal := by
  obtain ⟨hcfg, new, hev, hlegal⟩ := h
  unfold State.EventsLegal
  rw [hcfg, hev]
  exact List.forall_mem_append.2 ⟨hs, hlegal⟩

end AppendsLegal

/-! ### DB_TICK -/

/-- From s to t only what DB_TICK writes changes (41_debouncer.md R122), EV by legal records. -/
def TicksTo (s t : State) : Prop :=
  t = { s with chg := t.chg, cnt := t.cnt, stable := t.stable, ev := t.ev } ∧ AppendsLegal s t

namespace TicksTo

theorem refl (s : State) : TicksTo s s := ⟨rfl, .refl s⟩

theorem trans {s t u : State} (h₁ : TicksTo s t) (h₂ : TicksTo t u) : TicksTo s u := by
  obtain ⟨hframe₁, hev₁⟩ := h₁
  obtain ⟨hframe₂, hev₂⟩ := h₂
  exact ⟨hframe₂.trans (by rw [hframe₁]), hev₁.trans hev₂⟩

theorem emit (s : State) {e : Event} (h : eventLegal s.cfg e) : TicksTo s (s.emit e) :=
  ⟨rfl, .single rfl rfl h⟩

end TicksTo

theorem expireInput_ticksTo {s : State} {i : Nat} (h : i < s.cfg.inputCount) :
    TicksTo s (expireInput i s) :=
  ⟨rfl, .single rfl rfl h⟩

theorem tickBit_ticksTo (j k : Nat) (sm : State × Byte) : TicksTo sm.1 (tickBit j sm k).1 := by
  have hcount : ∀ n, TicksTo sm.1 (sm.1.writeCnt (8 * j + k) n) := fun n => ⟨rfl, .silent rfl rfl⟩
  simp only [tickBit]
  split_ifs with hchanging hzero
  · have hin : 8 * j + k < sm.1.cfg.inputCount := by
      simp only [Bool.and_eq_true, decide_eq_true_eq] at hchanging
      exact hchanging.1
    exact (hcount _).trans (expireInput_ticksTo hin)
  · exact hcount _
  · exact .refl _

theorem tickByte_ticksTo {s : State} {j : Nat} (h : j < byteCount s.cfg) : TicksTo s (tickByte s j) := by
  have hbits : TicksTo s ((List.range 8).foldl (tickBit j) (s, 0)).1 :=
    List.foldlRecOn (motive := fun sm => TicksTo s sm.1) _ _ (.refl s)
      fun sm ih k _ => ih.trans (tickBit_ticksTo j k sm)
  simp only [tickByte]
  split_ifs with hmask
  · exact hbits
  · have hj : j < byteCount ((List.range 8).foldl (tickBit j) (s, 0)).1.cfg := by rwa [hbits.2.1]
    exact hbits.trans (.emit _ ⟨hj, hmask⟩)

theorem tickAll_ticksTo (s : State) : TicksTo s (tickAll s) :=
  List.foldlRecOn (motive := TicksTo s) _ _ (.refl s) fun t ih j hj =>
    ih.trans (tickByte_ticksTo (by rw [ih.2.1]; exact List.mem_range.1 hj))

/-! ### DB_SAMPLE and DB_WRSTABLE -/

/-- DB_SAMPLE writes RAW, CHG and CNT alone (41_debouncer.md R121), whatever the arrays' sizes. -/
theorem sampleByte_frame (j : Nat) (v : Byte) (s : State) :
    sampleByte j v s = { s with
      raw := (sampleByte j v s).raw, chg := (sampleByte j v s).chg, cnt := (sampleByte j v s).cnt } :=
  List.foldlRecOn (motive := fun t : State => t = { s with raw := t.raw, chg := t.chg, cnt := t.cnt }) _ _ rfl
    fun t ih k _ => (sampleBit_frame j v t k).trans (by rw [ih])

/-- DB_WRSTABLE writes STABLE alone (41_debouncer.md R124), whatever the arrays' sizes. -/
theorem writeStableByte_frame (j : Nat) (v : Byte) (s : State) :
    writeStableByte j v s = { s with stable := (writeStableByte j v s).stable } :=
  List.foldlRecOn (motive := fun t : State => t = { s with stable := t.stable }) _ _ rfl fun t ih k _ => by
    have hbit : writeStableBit j v t k = { t with stable := (writeStableBit j v t k).stable } := by
      unfold writeStableBit; split <;> rfl
    exact hbit.trans (by rw [ih])

/-! ### The receiver -/

/-- From s to t only the receiver's registers change (10_state.md R32 to R38), and EV by legal
records. -/
def ReceivesTo (s t : State) : Prop :=
  t = { s with
      rxState := t.rxState, rxMark := t.rxMark, rxPos := t.rxPos, rxLen := t.rxLen, rxBuf := t.rxBuf
      rxAcc := t.rxAcc, rxCk := t.rxCk, lastErr := t.lastErr, errFlags := t.errFlags
      frameValid := t.frameValid, ev := t.ev }
    ∧ AppendsLegal s t

namespace ReceivesTo

theorem refl (s : State) : ReceivesTo s s := ⟨rfl, .refl s⟩

theorem trans {s t u : State} (h₁ : ReceivesTo s t) (h₂ : ReceivesTo t u) : ReceivesTo s u := by
  obtain ⟨hframe₁, hev₁⟩ := h₁
  obtain ⟨hframe₂, hev₂⟩ := h₂
  exact ⟨hframe₂.trans (by rw [hframe₁]), hev₁.trans hev₂⟩

theorem writeBuf (s : State) (off : Nat) (v : Byte) : ReceivesTo s (s.writeBuf off v) := by
  unfold State.writeBuf
  split
  · exact ⟨rfl, .silent rfl rfl⟩
  · exact .refl s

theorem report (s : State) {code : ErrCode} (h : code ≠ .errNone) : ReceivesTo s (s.report code) :=
  ⟨rfl, .single rfl rfl h⟩

theorem reportToIdle (s : State) {code : ErrCode} (h : code ≠ .errNone) :
    ReceivesTo s (s.report code).toIdle :=
  ⟨rfl, .single rfl rfl h⟩

end ReceivesTo

theorem startFrame_receivesTo (v : Byte) (t : Half) (s : State) : ReceivesTo s (startFrame v t s) := by
  have hclear : ReceivesTo s { s with frameValid := false } := ⟨rfl, .silent rfl rfl⟩
  have hstore := (hclear.trans (.writeBuf _ 0 0x00)).trans (.writeBuf _ 2 v)
  exact hstore.trans ⟨rfl, .silent rfl rfl⟩

theorem acceptFrom_receivesTo (v : Byte) (s : State) : ReceivesTo s (acceptFrom v s) := by
  have hcheck : ReceivesTo s (addressCheck (s.writeBuf 3 v)) := by
    refine (ReceivesTo.writeBuf s 3 v).trans ?_
    unfold addressCheck
    split
    · exact .refl _
    · exact .reportToIdle _ (by decide)
  simp only [acceptFrom]
  split
  · exact hcheck.trans ⟨rfl, .silent rfl rfl⟩
  · exact hcheck

theorem acceptLen_receivesTo (v : Byte) (s : State) : ReceivesTo s (acceptLen v s) := by
  have hcheck : ReceivesTo s (lengthCheck v (s.writeBuf 1 v)) := by
    refine (ReceivesTo.writeBuf s 1 v).trans ?_
    unfold lengthCheck
    split
    · exact .reportToIdle _ (by decide)
    · exact .refl _
  simp only [acceptLen]
  split
  · exact hcheck.trans ⟨rfl, .silent rfl rfl⟩
  · exact hcheck

theorem acceptHeader_receivesTo (v : Byte) (s : State) : ReceivesTo s (acceptHeader v s) := by
  have hfold : ReceivesTo s { s with rxAcc := checksumFold s.cfg s.rxAcc v } := ⟨rfl, .silent rfl rfl⟩
  simp only [acceptHeader]
  split
  · exact hfold.trans (acceptFrom_receivesTo v _)
  · exact hfold.trans (acceptLen_receivesTo v _)

theorem acceptPayload_receivesTo (v : Byte) (s : State) : ReceivesTo s (acceptPayload v s) := by
  have hfold : ReceivesTo s { s with rxAcc := checksumFold s.cfg s.rxAcc v } := ⟨rfl, .silent rfl rfl⟩
  have hstore := hfold.trans (.writeBuf _ (4 + s.rxPos.toNat) v)
  simp only [acceptPayload]
  split
  · exact hstore.trans ⟨rfl, .silent rfl rfl⟩
  · exact hstore.trans ⟨rfl, .silent rfl rfl⟩

/-- The RxFrame record's payload has the length its `len` field says (10_state.md R42). -/
theorem frameEvent_legal (c : Config) (s : State) : eventLegal c (frameEvent s) := by
  simp [frameEvent, eventLegal]

theorem complete_receivesTo (s : State) : ReceivesTo s (complete s) := by
  cases hverdict : checksumVerify s.cfg s.rxCk s.rxAcc with
  | true =>
    rw [complete_good hverdict]
    exact ⟨rfl, .single rfl rfl (frameEvent_legal _ s)⟩
  | false =>
    rw [complete_bad hverdict]
    exact ⟨rfl, .single rfl rfl (by simp [eventLegal])⟩

theorem acceptChecksum_receivesTo (v : Byte) (s : State) : ReceivesTo s (acceptChecksum v s) := by
  have hck : ∀ ck, ReceivesTo s { s with rxCk := ck } := fun ck => ⟨rfl, .silent rfl rfl⟩
  unfold acceptChecksum
  split_ifs
  · exact (hck _).trans (complete_receivesTo _)
  · exact ⟨rfl, .silent rfl rfl⟩
  · exact (hck _).trans (complete_receivesTo _)

theorem acceptByte_receivesTo (v : Byte) (s : State) : ReceivesTo s (acceptByte v s) := by
  rcases rxState_cases s with h | h | h | h | h | h <;> simp only [acceptByte, h]
  · exact .refl s
  · exact .refl s
  · exact acceptHeader_receivesTo v s
  · exact acceptPayload_receivesTo v s
  · exact acceptChecksum_receivesTo v s
  · exact .refl s

theorem lateByte_receivesTo (v : Byte) (t : Half) (s : State) : ReceivesTo s (lateByte v t s) := by
  unfold lateByte
  split
  · exact startFrame_receivesTo v t s
  · exact .refl s

theorem idleByte_receivesTo (v : Byte) (t : Half) (s : State) : ReceivesTo s (idleByte v t s) := by
  unfold idleByte
  split
  · exact startFrame_receivesTo v t s
  · exact .report s (by decide)

theorem awaitedByte_receivesTo (v : Byte) (t : Half) (s : State) : ReceivesTo s (awaitedByte v t s) := by
  unfold awaitedByte
  split
  · exact startFrame_receivesTo v t s
  · exact (ReceivesTo.reportToIdle s (by decide)).trans (lateByte_receivesTo v t _)

theorem frameByte_receivesTo (v : Byte) (t : Half) (s : State) : ReceivesTo s (frameByte v t s) := by
  have hmark : ReceivesTo s { s with rxMark := t } := ⟨rfl, .silent rfl rfl⟩
  unfold frameByte
  split
  · exact hmark.trans (acceptByte_receivesTo v _)
  · exact (ReceivesTo.reportToIdle s (by decide)).trans (lateByte_receivesTo v t _)

/-- RX_BYTE writes the receiver's registers and EV alone (43_receiver.md R192). -/
theorem receiveByte_receivesTo (v : Byte) (t : Half) (s : State) : ReceivesTo s (receiveByte v t s) := by
  rcases rxState_cases s with h | h | h | h | h | h
  · rw [receiveByte_idle h]; exact idleByte_receivesTo v t s
  · rw [receiveByte_awaitStart h]; exact awaitedByte_receivesTo v t s
  · rw [receiveByte_inFrame (.inl h)]; exact frameByte_receivesTo v t s
  · rw [receiveByte_inFrame (.inr (.inl h))]; exact frameByte_receivesTo v t s
  · rw [receiveByte_inFrame (.inr (.inr h))]; exact frameByte_receivesTo v t s
  · rw [receiveByte_complete h]; exact .refl s

/-- A poll leaves the state as it is, or reports one timeout and returns to IDLE (43_receiver.md
R194). -/
theorem pollWindows_cases (t : Half) (s : State) :
    pollWindows t s = s ∨ ∃ code pos, code ≠ .errNone
      ∧ pollWindows t s = { s.report code with rxState := .idle, rxPos := pos } := by
  have hgap : pollGap t s = s ∨ ∃ code pos, code ≠ .errNone
      ∧ pollGap t s = { s.report code with rxState := .idle, rxPos := pos } := by
    unfold pollGap
    split
    · exact .inl rfl
    · exact .inr ⟨.errTimeout, 0, by decide, rfl⟩
  have hstart : pollStart t s = s ∨ ∃ code pos, code ≠ .errNone
      ∧ pollStart t s = { s.report code with rxState := .idle, rxPos := pos } := by
    unfold pollStart
    split
    · exact .inl rfl
    · exact .inr ⟨.errTimeoutStart, s.rxPos, by decide, rfl⟩
  rcases rxState_cases s with h | h | h | h | h | h <;> simp only [pollWindows, h]
  · exact .inl trivial
  · exact hstart
  · exact hgap
  · exact hgap
  · exact hgap
  · exact .inl trivial

/-! ### Events and writers, command by command -/

/-- Every command appends legal records to EV. -/
theorem effect_appendsLegal (s : State) (i : Instr) : AppendsLegal s (effect s i) := by
  cases i with
  | tmElapsed slot d =>
    simp only [effect]
    split
    · exact .silent rfl rfl
    · exact .refl s
  | dbSample j v =>
    have hframe := sampleByte_frame j.toNat v s
    exact .silent (by rw [effect, hframe]) (by rw [effect, hframe])
  | dbWrstable j v =>
    have hframe := writeStableByte_frame j.toNat v s
    exact .silent (by rw [effect, hframe]) (by rw [effect, hframe])
  | dbTick => exact (tickAll_ticksTo s).2
  | rxByte v t => exact (receiveByte_receivesTo v t s).2
  | rxPoll t =>
    rcases pollWindows_cases t s with h | ⟨code, pos, hcode, h⟩ <;> simp only [effect, h]
    · exact .refl s
    · exact .single rfl rfl hcode
  | tmSet _ | tmMark _ | ckInit | ckUpdate _ | rxArm _ | rxClrerr | dbRdstable _ | ckRead | ckVerify _
  | rxStatus | rxRdbuf _ => exact .silent rfl rfl

theorem exec_appendsLegal {i : Instr} {s t : State} (h : exec i s = .next t) : AppendsLegal s t := by
  rcases exec_next_cases h with ⟨-, rfl⟩ | ⟨code, -, rfl⟩
  · exact (effect_appendsLegal s i).trans (.silent rfl rfl)
  · exact .silent rfl rfl

/-- A step appends legal records to EV, or is a reset. -/
theorem step_appendsLegal {s t : State} (h : step s = .next t) :
    AppendsLegal s t
      ∨ ∃ c rest, s.inputs = .reset c :: rest ∧ t = { State.resetWith c with inputs := rest } := by
  rcases step_next_cases h with ⟨-, rfl⟩ | ⟨w, rest, -, -, rfl⟩ | ⟨w, rest, i, -, -, -, he⟩
    | ⟨w, rest, r, -, -, -, rfl⟩ | hreset
  · exact .inl (.refl _)
  · exact .inl (.silent rfl rfl)
  · have hconsume : AppendsLegal s { s with inputs := rest } := .silent rfl rfl
    exact .inl (hconsume.trans (exec_appendsLegal he))
  · exact .inl (.silent rfl rfl)
  · exact .inr hreset

/-- Settles O15: a step appends legal records, or resets EV to the empty stream. -/
theorem stepKeepsEventsLegal : Obligations.StepKeepsEventsLegal := by
  intro s t hs h
  rcases step_appendsLegal h with happ | ⟨c, rest, -, rfl⟩
  · exact happ.eventsLegal hs
  · exact fun e he => absurd he List.not_mem_nil

/-- Settles O17: a step that is no reset appends records. -/
theorem eventStreamAppendOnly : Obligations.EventStreamAppendOnly := by
  intro s t h
  rcases step_appendsLegal h with ⟨-, new, hev, -⟩ | ⟨c, rest, hi, -⟩
  · exact .inr ⟨new, hev⟩
  · exact .inl ⟨c, rest, hi⟩

/-- Settles O18: by command, from what its loop or procedure can write. -/
theorem registersWrittenOnlyByTheirCommands : Obligations.RegistersWrittenOnlyByTheirCommands := by
  intro i s t h
  rcases exec_next_cases h with ⟨hf, rfl⟩ | ⟨code, -, rfl⟩
  · cases i with
    | tmElapsed slot d =>
      by_cases hd : d.toNat ≤ (gap16 s.now (s.readMark slot.toNat)).toNat <;> simp [effect, answer, hd]
    | dbSample j v => rw [effect, sampleByte_frame]; simp
    | dbTick => rw [effect, (tickAll_ticksTo s).1]; simp
    | dbWrstable j v =>
      obtain ⟨-, halias⟩ := completes_dbWrstable hf
      rw [effect, writeStableByte_frame]; simp [halias]
    | rxByte v t => rw [effect, (receiveByte_receivesTo v t s).1]; simp
    | rxPoll t =>
      rcases pollWindows_cases t s with hp | ⟨code, pos, -, hp⟩ <;> simp [effect, hp]
    | tmSet _ | tmMark _ | ckInit | ckUpdate _ | rxArm _ | rxClrerr | dbRdstable _ | ckRead | ckVerify _
    | rxStatus | rxRdbuf _ => simp [effect]
  · simp

/-! ### The debouncer's invariants -/

/-- The debouncer's part of `debouncerSound`: sizes, padding and R30. -/
def DebouncerKept (s : State) : Prop := s.Shaped ∧ s.PaddingClear ∧ s.DebounceInv

/-- From s to t the configuration, the number of marks and the debouncer's arrays stay. -/
def SameDebouncer (s t : State) : Prop :=
  t.cfg = s.cfg ∧ t.mark.length = s.mark.length ∧ t.raw = s.raw ∧ t.chg = s.chg ∧ t.cnt = s.cnt
    ∧ t.stable = s.stable

theorem SameDebouncer.kept {s t : State} (h : SameDebouncer s t) (hs : DebouncerKept s) :
    DebouncerKept t := by
  obtain ⟨hcfg, hmark, hraw, hchg, hcnt, hstable⟩ := h
  simpa only [DebouncerKept, State.Shaped, State.PaddingClear, State.DebounceInv, State.readRaw,
    State.readChg, State.readCnt, State.readStable, hcfg, hmark, hraw, hchg, hcnt, hstable] using hs

theorem ReceivesTo.sameDebouncer {s t : State} (h : ReceivesTo s t) : SameDebouncer s t := by
  rw [h.1]
  exact ⟨rfl, rfl, rfl, rfl, rfl, rfl⟩

/-- The countdown a raw change loads is 1..15 under a legal configuration (00_scope.md R6). -/
theorem settleCount_range {c : Config} (h : configLegal c = true) (x : Bool) :
    1 ≤ (settleCount c x).toNat ∧ (settleCount c x).toNat ≤ 15 := by
  simp only [configLegal, Bool.and_eq_true, decide_eq_true_eq] at h
  cases x <;> simp only [settleCount, BitVec.toNat_ofNat, if_true, Bool.false_eq_true, if_false] <;> omega

/-- STABLE starts with clear padding, whatever STABLE_INIT holds (10_state.md R29). -/
theorem bitRead_initialStable_padding (c : Config) {i : Nat} (h : c.inputCount ≤ i) :
    bitRead (initialStable c) i = false := by
  simp only [bitRead, byteAt, initialStable, List.getD_eq_getElem?_getD, List.getElem?_map]
  by_cases hbyte : i / 8 < byteCount c
  · have hpad : ¬ 8 * (i / 8) + i % 8 < c.inputCount := by omega
    simp [List.getElem?_range hbyte, getLsbD_presentByte, hpad]
  · simp [Nat.not_lt.1 hbyte]

theorem resetWith_debouncerKept (c : Config) : DebouncerKept (State.resetWith c) := by
  have hzero : ∀ i, bitRead (List.replicate (byteCount c) 0) i = false := bitRead_replicate_zero _
  refine ⟨?_, fun i hi => ⟨hzero i, hzero i, ?_⟩, fun i hi => ⟨?_, fun _ => ?_, ?_⟩⟩
  · cases ha : c.aliasMode <;> simp [State.Shaped, State.resetWith, ha]
  · show bitRead (if c.aliasMode then initialStable c else _) i = false
    split
    · exact bitRead_initialStable_padding c hi
    · exact hzero i
  · intro hchg
    exact absurd ((hzero i).symm.trans hchg) (by decide)
  · have hi' : i < c.inputCount := hi
    simp [State.readCnt, State.resetWith, hi']
  · intro halias _
    have halias' : c.aliasMode = false := halias
    simp [State.readStable, State.readRaw, State.resetWith, halias']

theorem sampleByte_debouncerKept {s : State} (hcfg : configLegal s.cfg = true) (h : DebouncerKept s)
    (j : Nat) (v : Byte) : DebouncerKept (sampleByte j v s) := by
  obtain ⟨hshape, hpad, hinv⟩ := h
  obtain ⟨hframe, hraw, hchg, hcnt, hread⟩ := sampleByte_spec j v s hshape
  generalize sampleByte j v s = t at *
  have hcfg' : t.cfg = s.cfg := by rw [hframe]
  have hmark : t.mark = s.mark := by rw [hframe]
  have hstable : t.stable = s.stable := by rw [hframe]
  have hstableAt : ∀ i, t.readStable i = s.readStable i := fun i => by
    simp only [State.readStable, hstable]
  refine ⟨?_, fun i hi => ?_, fun i hi => ?_⟩
  · simpa only [State.Shaped, hcfg', hmark, hraw, hchg, hcnt, hstable] using hshape
  · rw [hcfg'] at hi
    have hmiss : ¬ sampleHits s j v 8 i := fun ⟨_, _, hlt, _⟩ => absurd hlt (Nat.not_lt.2 hi)
    obtain ⟨hr, hc, -⟩ := (hread i).2 hmiss
    rw [hr, hc, hstableAt]
    exact hpad i hi
  · rw [hcfg'] at hi ⊢
    by_cases hhit : sampleHits s j v 8 i
    · obtain ⟨-, hc, hn⟩ := (hread i).1 hhit
      rw [hc, hn]
      exact ⟨fun _ => settleCount_range hcfg _, fun h => (by cases h), fun _ h => (by cases h)⟩
    · obtain ⟨hr, hc, hn⟩ := (hread i).2 hhit
      rw [hr, hc, hn, hstableAt]
      exact hinv i hi

/-- A changing input expires when its countdown reaches 0 (41_debouncer.md R122). -/
theorem expiring_of_changing {s : State} {i : Nat} (h : changing s i = true) :
    expiring s i = decide (s.readCnt i - 1 = 0) := by
  rw [expiring, h, Bool.true_and]

theorem tickAll_debouncerKept {s : State} (h : DebouncerKept s) : DebouncerKept (tickAll s) := by
  obtain ⟨hshape, hpad, hinv⟩ := h
  obtain ⟨hframe, hshape', hread⟩ := tickAll_spec s hshape
  generalize tickAll s = t at *
  have hcfg : t.cfg = s.cfg := by rw [hframe]
  have hraw : ∀ i, t.readRaw i = s.readRaw i := fun i => by rw [hframe]; rfl
  refine ⟨hshape', fun i hi => ?_, fun i hi => ?_⟩
  · rw [hcfg] at hi
    have hquiet : changing s i = false := by simp [changing, Nat.not_lt.2 hi]
    have hkeep : expiring s i = false := by simp [expiring, hquiet]
    obtain ⟨-, hc, hst⟩ := hread i
    rw [hraw, hc, hst, hkeep]
    exact hpad i hi
  · rw [hcfg] at hi ⊢
    obtain ⟨hn, hc, hst⟩ := hread i
    rw [hn, hc, hst, hraw]
    by_cases hchg : s.readChg i = true
    · have hchanging : changing s i = true := by simp [changing, hi, hchg]
      rw [hchanging, expiring_of_changing hchanging, hchg]
      by_cases hlast : s.readCnt i - 1 = 0
      · rw [decide_eq_true hlast]
        exact ⟨nofun, fun _ => hlast, fun _ _ => rfl⟩
      · have hpos : (s.readCnt i - 1).toNat ≠ 0 := fun h0 => hlast (BitVec.eq_of_toNat_eq h0)
        rw [decide_eq_false hlast]
        exact ⟨fun _ => ⟨Nat.one_le_iff_ne_zero.2 hpos, Nat.le_of_lt_succ (s.readCnt i - 1).isLt⟩,
          nofun, fun _ => nofun⟩
    · have hquiet : changing s i = false := by simp [changing, hchg]
      have hkeep : expiring s i = false := by simp [expiring, hquiet]
      rw [hquiet, hkeep]
      exact hinv i hi

/-- DB_WRSTABLE's loop: everything it does (41_debouncer.md R124). -/
theorem writeStableByte_spec (j : Nat) (v : Byte) (s : State) (hs : s.Shaped) :
    writeStableByte j v s = { s with stable := (writeStableByte j v s).stable }
      ∧ (writeStableByte j v s).stable.length = s.stable.length
      ∧ ∀ i, (writeStableByte j v s).readStable i
          = if 8 * j ≤ i ∧ i < 8 * j + 8 ∧ i < s.cfg.inputCount then v.getLsbD (i - 8 * j)
            else s.readStable i :=
  writeStableLoop_spec j v s hs 8

theorem writeStableByte_debouncerKept {s : State} (halias : s.cfg.aliasMode = true)
    (h : DebouncerKept s) (j : Nat) (v : Byte) : DebouncerKept (writeStableByte j v s) := by
  obtain ⟨hshape, hpad, hinv⟩ := h
  obtain ⟨hframe, hlen, hread⟩ := writeStableByte_spec j v s hshape
  generalize writeStableByte j v s = t at *
  have hcfg : t.cfg = s.cfg := by rw [hframe]
  have hraw : t.raw = s.raw := by rw [hframe]
  have hchg : t.chg = s.chg := by rw [hframe]
  have hcnt : t.cnt = s.cnt := by rw [hframe]
  have hmark : t.mark = s.mark := by rw [hframe]
  refine ⟨?_, fun i hi => ?_, fun i hi => ?_⟩
  · simpa only [State.Shaped, hcfg, hmark, hraw, hchg, hcnt, hlen] using hshape
  · rw [hcfg] at hi
    rw [hread, if_neg fun ⟨_, _, hlt⟩ => absurd hlt (Nat.not_lt.2 hi)]
    simpa only [State.readRaw, State.readChg, hraw, hchg] using hpad i hi
  · rw [hcfg] at hi ⊢
    obtain ⟨hset, hclear, -⟩ := hinv i hi
    have hnoAlias : s.cfg.aliasMode ≠ false := by rw [halias]; decide
    simp only [State.readChg, State.readCnt, hchg, hcnt]
    exact ⟨hset, hclear, fun ha => absurd ha hnoAlias⟩

/-- Every command that completes under a legal configuration keeps the debouncer's invariants. -/
theorem effect_debouncerKept {i : Instr} {s : State} (hcfg : configLegal s.cfg = true)
    (hfault : faultOf i s = none) (h : DebouncerKept s) : DebouncerKept (effect s i) := by
  cases i with
  | dbSample j v => exact sampleByte_debouncerKept hcfg h j.toNat v
  | dbTick => exact tickAll_debouncerKept h
  | dbWrstable j v =>
    obtain ⟨-, halias⟩ := completes_dbWrstable hfault
    exact writeStableByte_debouncerKept halias h j.toNat v
  | tmMark slot =>
    have hsame : SameDebouncer s (effect s (.tmMark slot)) := ⟨rfl, by simp [effect], rfl, rfl, rfl, rfl⟩
    exact hsame.kept h
  | tmElapsed slot d =>
    refine SameDebouncer.kept ?_ h
    simp only [effect]
    split
    · exact ⟨rfl, by simp, rfl, rfl, rfl, rfl⟩
    · exact ⟨rfl, rfl, rfl, rfl, rfl, rfl⟩
  | rxByte v t => exact (receiveByte_receivesTo v t s).sameDebouncer.kept h
  | rxPoll t =>
    refine SameDebouncer.kept ?_ h
    rcases pollWindows_cases t s with hp | ⟨code, pos, -, hp⟩ <;> simp only [effect, hp] <;>
      exact ⟨rfl, rfl, rfl, rfl, rfl, rfl⟩
  | tmSet _ | ckInit | ckUpdate _ | rxArm _ | rxClrerr | dbRdstable _ | ckRead | ckVerify _
  | rxStatus | rxRdbuf _ => exact SameDebouncer.kept ⟨rfl, rfl, rfl, rfl, rfl, rfl⟩ h

theorem exec_debouncerKept {i : Instr} {s t : State} (he : exec i s = .next t)
    (hcfg : configLegal s.cfg = true) (h : DebouncerKept s) : DebouncerKept t := by
  rcases exec_next_cases he with ⟨hfault, rfl⟩ | ⟨code, -, rfl⟩
  · exact SameDebouncer.kept ⟨rfl, rfl, rfl, rfl, rfl, rfl⟩ (effect_debouncerKept hcfg hfault h)
  · exact SameDebouncer.kept ⟨rfl, rfl, rfl, rfl, rfl, rfl⟩ h

/-- Settles O12: by what the step does. A running block has a legal configuration, so the countdowns a
sample loads are in 1..15. -/
theorem stepKeepsDebouncerSound : Obligations.StepKeepsDebouncerSound := by
  rintro s t ⟨hchecked, hkept⟩ h
  have hlegal : s.fault = none → configLegal s.cfg = true := fun hrun =>
    hchecked.resolve_right fun hbad => by rw [hrun] at hbad; cases hbad
  rcases step_next_cases h with ⟨-, rfl⟩ | ⟨w, rest, -, -, rfl⟩ | ⟨w, rest, i, -, hrun, -, he⟩
    | ⟨w, rest, r, -, hrun, -, rfl⟩ | ⟨c, rest, -, rfl⟩
  · exact ⟨hchecked, hkept⟩
  · exact ⟨hchecked, hkept⟩
  · have hcfg : t.cfg = s.cfg := (exec_appendsLegal he).1
    exact ⟨.inl (hcfg ▸ hlegal hrun), exec_debouncerKept he (hlegal hrun) hkept⟩
  · exact ⟨.inl (hlegal hrun), hkept⟩
  · refine ⟨?_, resetWith_debouncerKept c⟩
    show configLegal c = true ∨ (if configLegal c then none else some FaultCode.badConfig) = _
    cases configLegal c
    · exact .inr rfl
    · exact .inl rfl

/-! ### The status word -/

/-- The layout of 10_state.md R40, bit by bit. -/
theorem getLsbD_statusWord (s : State) (k : Nat) :
    (statusWord s).getLsbD k
      = if k < 3 then (rxStateCode s.rxState).getLsbD k
        else if k < 6 then (errNumber s.lastErr).getLsbD (k - 3)
        else if k = 6 then s.frameValid
        else if 8 ≤ k ∧ k < 13 then s.errFlags.getLsbD (k - 8)
        else false := by
  by_cases hk : k < 16
  · interval_cases k <;> simp [statusWord]
  · have hout : ¬ k < 3 ∧ ¬ k < 6 ∧ k ≠ 6 ∧ ¬ (8 ≤ k ∧ k < 13) := by omega
    rw [BitVec.getLsbD_of_ge _ _ (Nat.not_lt.1 hk)]
    simp [hout]

/-- Bits [2:0] of the status word. -/
theorem statusWord_rxState (s : State) : (statusWord s).toNat % 8 = (rxStateCode s.rxState).toNat := by
  have hbits : (statusWord s).extractLsb' 0 3 = rxStateCode s.rxState :=
    BitVec.eq_of_getLsbD_eq fun k hk => by simp [getLsbD_statusWord, hk]
  rw [← hbits]; simp [BitVec.extractLsb'_toNat]

/-- Bits [5:3] of the status word. -/
theorem statusWord_lastErr (s : State) :
    (statusWord s).toNat / 8 % 8 = (errNumber s.lastErr).toNat := by
  have hbits : (statusWord s).extractLsb' 3 3 = errNumber s.lastErr :=
    BitVec.eq_of_getLsbD_eq fun k hk => by
      have hlo : ¬ 3 + k < 3 := by omega
      have hhi : 3 + k < 6 := by omega
      simp [getLsbD_statusWord, hk, hlo, hhi]
  rw [← hbits]; simp [BitVec.extractLsb'_toNat, Nat.shiftRight_eq_div_pow]

/-- Settles O54, from the layout of the status word. -/
theorem rxStatusResult : Obligations.RxStatusResult := by
  refine ⟨issues_of_row (r := ⟨0x33, true, true, fun _ _ => .rxStatus⟩) rfl,
    fun s => ⟨statusWord s, rfl, ?_⟩⟩
  refine ⟨?_, ?_, ?_, ?_, fun k hk => ?_, fun k hk => ?_⟩
  · rw [statusWord_rxState]; cases s.rxState <;> rfl
  · rw [statusWord_lastErr]; cases s.lastErr <;> rfl
  · exact getLsbD_statusWord s 6
  · exact getLsbD_statusWord s 7
  · rw [getLsbD_statusWord, if_neg (by omega), if_neg (by omega), if_neg (by omega),
      if_pos (by omega), Nat.add_sub_cancel_left]
  · rw [getLsbD_statusWord, if_neg (by omega), if_neg (by omega), if_neg (by omega), if_neg (by omega)]

end Sys2Proof.Proofs

/-! PROOFS. 30_encoding.md: the round trip between commands and command words, the two faults of
decoding, and the words the assembler writes. -/

namespace Sys2Proof.Proofs

open Sys2Proof.Machine Sys2Proof.Claims

/-! ### The round trip -/

/-- A word decodes to a command exactly when a row has its opcode, the fields the row reserves are 0,
and the row makes the command of the word's fields (30_encoding.md R86). -/
theorem decode_eq_ok_iff {w : Word} {i : Instr} :
    decode w = .ok i ↔ ∃ r, opMap.find? (fun r => r.op == opField w) = some r
      ∧ (r.aReserved = true → aField w = 0) ∧ (r.bReserved = true → bField w = 0)
      ∧ r.build (aField w) (bField w) = i := by
  constructor
  · intro hdec
    unfold decode at hdec
    split at hdec
    next => cases hdec
    next r hrow =>
      split_ifs at hdec with ha hb
      cases hdec
      exact ⟨r, hrow, by simpa using ha, by simpa using hb, rfl⟩
  · rintro ⟨r, hrow, ha, hb, rfl⟩
    have ha' : (r.aReserved && aField w != 0) = false := by simpa using ha
    have hb' : (r.bReserved && bField w != 0) = false := by simpa using hb
    simp only [decode, hrow, ha', hb', Bool.false_eq_true, if_false]

/-- The word with a row's opcode and with 0 in the fields the row reserves decodes to the row's
command of the word's fields. -/
theorem decode_commandWord {op a : Byte} {b : Half} {r : OpRow} {i : Instr}
    (hrow : opMap.find? (fun r => r.op == op) = some r) (ha : r.aReserved = true → a = 0)
    (hb : r.bReserved = true → b = 0) (hi : r.build a b = i) : decode (commandWord op a b) = .ok i := by
  rw [decode_eq_ok_iff, opField_commandWord, aField_commandWord, bField_commandWord]
  exact ⟨r, hrow, ha, hb, hi⟩

/-- Settles O1, by the row of each command; the cases stand together by the fields their rows reserve. -/
theorem decodeEncodeAgree : Obligations.DecodeEncodeAgree := by
  intro i
  cases i with
  | tmElapsed _ _ | dbSample _ _ | dbWrstable _ _ | rxByte _ _ =>
    exact decode_commandWord rfl Bool.noConfusion Bool.noConfusion rfl
  | tmSet _ | dbRdstable _ | ckVerify _ | rxArm _ | rxPoll _ | rxRdbuf _ =>
    exact decode_commandWord rfl (fun _ => rfl) Bool.noConfusion rfl
  | tmMark _ | ckUpdate _ => exact decode_commandWord rfl Bool.noConfusion (fun _ => rfl) rfl
  | dbTick | ckInit | ckRead | rxStatus | rxClrerr =>
    exact decode_commandWord rfl (fun _ => rfl) (fun _ => rfl) rfl

/-- The word of a row's command has the row's opcode and the two fields the command was made of, if the
fields the row reserves are 0 (30_encoding.md R82, R87). -/
theorem encode_build {r : OpRow} (hr : r ∈ opMap) {a : Byte} {b : Half}
    (ha : r.aReserved = true → a = 0) (hb : r.bReserved = true → b = 0) :
    encode (r.build a b) = commandWord r.op a b := by
  simp only [opMap, List.mem_cons, List.not_mem_nil, or_false] at hr
  rcases hr with rfl | rfl | rfl | rfl | rfl | rfl | rfl | rfl | rfl | rfl | rfl | rfl | rfl | rfl | rfl
    | rfl | rfl <;> simp_all [encode]

/-- Settles O2: the word's row and fields give back the word. -/
theorem encodeDecodeAgree : Obligations.EncodeDecodeAgree := by
  intro w i hdec
  obtain ⟨r, hrow, ha, hb, rfl⟩ := decode_eq_ok_iff.1 hdec
  have hop : r.op = opField w := by simpa using List.find?_some hrow
  rw [encode_build (List.mem_of_find?_eq_some hrow) ha hb, hop, commandWord_fields]

/-! ### The faults of decoding -/

/-- A rejected word on a running block: fault entry (30_encoding.md R84, R85; 60_exceptions.md R251). -/
theorem acceptCommand_of_decode_error {w : Word} {s : State} {e : Reject} (hrun : s.fault = none)
    (hdec : decode w = .error e) :
    acceptCommand w s
      = .next { s with fault := some (rejectFault e), faultWord := w, response := none } := by
  simp [acceptCommand, performCommand, hrun, hdec, takeFault]

/-- `opcodes` lists the opcodes of the opcode map. -/
theorem opcodes_eq_map_op : opcodes = opMap.map (fun r => r.op.toNat) := rfl

/-- A word whose opcode is not listed is illegal (30_encoding.md R85). -/
theorem decode_of_not_mem_opcodes {w : Word} (h : w.toNat / 2 ^ 24 ∉ opcodes) :
    decode w = .error .illegalCommand :=
  decode_of_no_row fun r hr heq => h (by rw [opcodes_eq_map_op, List.mem_map]; exact ⟨r, hr, heq⟩)

/-- Settles O4, by the fault entry of a rejected word. -/
theorem illegalOpcodeFaults : Obligations.IllegalOpcodeFaults :=
  ⟨fun _ _ hrun hop => acceptCommand_of_decode_error hrun (decode_of_not_mem_opcodes hop),
    decode_of_not_mem_opcodes (by decide)⟩

/-- An opcode listed as reserving `a` has a row that reserves `a`. -/
theorem row_of_mem_aReservedOpcodes {op : Nat} (h : op ∈ aReservedOpcodes) :
    ∃ r, opMap.find? (fun r => r.op.toNat == op) = some r ∧ r.aReserved = true := by
  have hall : ∀ op ∈ aReservedOpcodes,
      (opMap.find? fun r => r.op.toNat == op).any (·.aReserved) = true := by decide
  exact (Option.any_eq_true _ _).1 (hall op h)

/-- An opcode listed as reserving `b` has a row that reserves `b`. -/
theorem row_of_mem_bReservedOpcodes {op : Nat} (h : op ∈ bReservedOpcodes) :
    ∃ r, opMap.find? (fun r => r.op.toNat == op) = some r ∧ r.bReserved = true := by
  have hall : ∀ op ∈ bReservedOpcodes,
      (opMap.find? fun r => r.op.toNat == op).any (·.bReserved) = true := by decide
  exact (Option.any_eq_true _ _).1 (hall op h)

/-- Settles O5, by what a running block does with the words of a row. -/
theorem reservedFieldFaults : Obligations.ReservedFieldFaults := by
  rintro w s hrun (⟨hop, ha⟩ | ⟨hop, hb⟩)
  · obtain ⟨r, hrow, hres⟩ := row_of_mem_aReservedOpcodes hop
    rw [issues_of_row hrow w s hrun rfl, if_pos (.inl ⟨hres, ha⟩)]
  · obtain ⟨r, hrow, hres⟩ := row_of_mem_bReservedOpcodes hop
    rw [issues_of_row hrow w s hrun rfl, if_pos (.inr ⟨hres, hb⟩)]

/-! ### The assembler -/

/-- The command word as the number of the syntax table, for operands that fit (30_encoding.md R87). -/
theorem commandWord_ofNat (op : Byte) {m n : Nat} (hm : m ≤ 0xFF) (hn : n ≤ 0xFFFF) :
    commandWord op (BitVec.ofNat 8 m) (BitVec.ofNat 16 n)
      = BitVec.ofNat 32 (op.toNat * 2 ^ 24 + m * 2 ^ 16 + n) := by
  apply BitVec.eq_of_toNat_eq
  rw [toNat_commandWord, BitVec.toNat_ofNat, BitVec.toNat_ofNat, BitVec.toNat_ofNat]
  omega

/-- The words of a command with one 16-bit operand, which its word carries in `b`. -/
theorem words_halfOperand (op : Byte) {build : Half → Instr}
    (henc : ∀ h, encode (build h) = commandWord op 0 h) (n : Nat) :
    (halfOperand build [n]).map (List.map encode)
      = if n ≤ 0xFFFF then some [BitVec.ofNat 32 (op.toNat * 2 ^ 24 + n)] else none := by
  by_cases hn : n ≤ 0xFFFF
  · simpa [halfOperand, fitHalf, hn, henc] using commandWord_ofNat op (Nat.zero_le 0xFF) hn
  · simp [halfOperand, fitHalf, hn]

/-- The words of a command with one byte operand, which its word carries in `a`. -/
theorem words_byteOperand (op : Byte) {build : Byte → Instr}
    (henc : ∀ v, encode (build v) = commandWord op v 0) (n : Nat) :
    (byteOperand build [n]).map (List.map encode)
      = if n ≤ 0xFF then some [BitVec.ofNat 32 (op.toNat * 2 ^ 24 + n * 2 ^ 16)] else none := by
  by_cases hn : n ≤ 0xFF
  · simpa [byteOperand, fitByte, hn, henc] using commandWord_ofNat op hn (Nat.zero_le 0xFFFF)
  · simp [byteOperand, fitByte, hn]

/-- The words of a command with a byte operand and then a 16-bit operand. -/
theorem words_byteHalfOperands (op : Byte) {build : Byte → Half → Instr}
    (henc : ∀ v h, encode (build v h) = commandWord op v h) (m n : Nat) :
    (byteHalfOperands build [m, n]).map (List.map encode)
      = if m ≤ 0xFF ∧ n ≤ 0xFFFF then some [BitVec.ofNat 32 (op.toNat * 2 ^ 24 + m * 2 ^ 16 + n)]
        else none := by
  by_cases hm : m ≤ 0xFF
  · by_cases hn : n ≤ 0xFFFF
    · simp [byteHalfOperands, fitByte, fitHalf, hm, hn, henc, commandWord_ofNat]
    · simp [byteHalfOperands, fitByte, fitHalf, hm, hn]
  · simp [byteHalfOperands, fitByte, hm]

/-- The words of a command with a 16-bit operand and then a byte operand. -/
theorem words_halfByteOperands (op : Byte) {build : Half → Byte → Instr}
    (henc : ∀ h v, encode (build h v) = commandWord op v h) (m n : Nat) :
    (halfByteOperands build [m, n]).map (List.map encode)
      = if m ≤ 0xFFFF ∧ n ≤ 0xFF then some [BitVec.ofNat 32 (op.toNat * 2 ^ 24 + n * 2 ^ 16 + m)]
        else none := by
  by_cases hm : m ≤ 0xFFFF
  · by_cases hn : n ≤ 0xFF
    · simp [halfByteOperands, fitByte, fitHalf, hm, hn, henc, commandWord_ofNat]
    · simp [halfByteOperands, fitByte, fitHalf, hm, hn]
  · simp [halfByteOperands, fitHalf, hm]

/-- Settles O60: each mnemonic's operand shape, with the opcode its command's word carries. -/
theorem assemblerWords : Obligations.AssemblerWords := by
  simp only [Obligations.AssemblerWords, List.forall_mem_cons, List.not_mem_nil, false_implies,
    implies_true, and_true]
  refine ⟨⟨?_, ?_, ?_, ?_, ?_, ?_⟩, ⟨?_, ?_⟩, ⟨?_, ?_⟩, ⟨?_, ?_⟩, rfl, rfl, rfl, rfl, rfl⟩
  · exact words_halfOperand 0x01 fun _ => rfl
  · exact words_halfOperand 0x12 fun _ => rfl
  · exact words_halfOperand 0x23 fun _ => rfl
  · exact words_halfOperand 0x30 fun _ => rfl
  · exact words_halfOperand 0x32 fun _ => rfl
  · exact words_halfOperand 0x35 fun _ => rfl
  · exact words_byteOperand 0x02 fun _ => rfl
  · exact words_byteOperand 0x21 fun _ => rfl
  · exact words_byteHalfOperands 0x03 fun _ _ => rfl
  · exact words_byteHalfOperands 0x31 fun _ _ => rfl
  · exact words_halfByteOperands 0x10 fun _ _ => rfl
  · exact words_halfByteOperands 0x13 fun _ _ => rfl

/-- A command's word decodes to it. -/
theorem decode_of_encode_eq {i : Instr} {w : Word} (h : encode i = w) : decode w = .ok i :=
  h ▸ decodeEncodeAgree i

/-- Settles O3: the words by running the assembler, the rest by the statements above. -/
theorem encodingExamples : Obligations.EncodingExamples := by
  refine ⟨by decide, decode_of_encode_eq rfl, by decide, decode_of_encode_eq rfl, by decide,
    decode_of_encode_eq rfl, by decide, decode_of_encode_eq rfl, by decide, decode_of_encode_eq rfl,
    by decide, decode_of_encode_eq rfl, by decide, decode_of_encode_eq rfl, by decide,
    decode_of_encode_eq rfl, ?_, ?_, ?_⟩
  · intro w hw
    simp only [List.mem_cons, List.not_mem_nil, or_false] at hw
    obtain rfl | rfl | rfl := hw <;> exact decode_of_not_mem_opcodes (by decide)
  · exact decode_of_row (r := ⟨0x11, true, true, fun _ _ => .dbTick⟩) rfl
  · exact fun s hrun => reservedFieldFaults 0x11000001 s hrun (.inr (by decide))

end Sys2Proof.Proofs

/-! PROOFS. 40_timer.md: the wrap-around gap, the mark a timer command writes, and when TM_ELAPSED
answers 1. -/

namespace Sys2Proof.Proofs

open Sys2Proof.Machine Sys2Proof.Claims

/-! ### The wrap-around gap -/

/-- The gap of two true times is their elapsed time modulo 2^16 (40_timer.md R100). -/
theorem toNat_gap16_ofNat {now mark : Nat} (h : mark ≤ now) :
    (gap16 (BitVec.ofNat 16 now) (BitVec.ofNat 16 mark)).toNat = (now - mark) % 65536 := by
  rw [toNat_gap16, BitVec.toNat_ofNat, BitVec.toNat_ofNat]
  omega

/-- Settles O25: the first part by whether the counter has wrapped, the second because a number is its
own remainder exactly when it is below the modulus. -/
theorem wrapAroundGap : Obligations.WrapAroundGap := by
  refine ⟨fun t m => ⟨?_, Nat.le_of_lt_succ (gap16 t m).isLt⟩, fun now mark h => ?_⟩
  · have ht := t.isLt
    have hm := m.isLt
    rw [toNat_gap16]
    split <;> omega
  · rw [toNat_gap16_ofNat h]
    exact Nat.mod_eq_iff_lt (by decide)

/-! ### The mark a timer command writes -/

/-- `MARK[k] <- t` for a slot in range: slot k holds t, every other slot stays (10_state.md R24). -/
theorem readMark_writeMark_inRange {s : State} (hs : s.Shaped) {k : Nat} (hk : k < s.cfg.timerSlots)
    (t : Half) : (s.writeMark k t).readMark k = t
      ∧ ∀ l, l ≠ k → (s.writeMark k t).readMark l = s.readMark l := by
  obtain ⟨hmark, -⟩ := hs
  refine ⟨?_, fun l hl => ?_⟩
  · rw [readMark_writeMark, if_pos ⟨rfl, hmark ▸ hk⟩]
  · rw [readMark_writeMark, if_neg fun h => hl h.1]

/-- TM_ELAPSED answers 1 exactly when its slot is in range and the gap from the slot's mark to NOW is
at least d (40_timer.md R103). -/
theorem tmElapsed_response_eq_one_iff {slot : Byte} {d : Half} {s u : State}
    (h : exec (.tmElapsed slot d) s = .next u) :
    u.response = some 1
      ↔ slot.toNat < s.cfg.timerSlots ∧ d.toNat ≤ gap s.now (s.readMark slot.toNat) := by
  rw [gap, ← toNat_gap16]
  rcases exec_next_cases h with ⟨hfault, rfl⟩ | ⟨code, hfault, rfl⟩
  · have hin := lt_of_rangeFault_none hfault
    by_cases hd : d.toNat ≤ (gap16 s.now (s.readMark slot.toNat)).toNat
    · simp [answer, hin, hd]
    · simp [answer, hd]
  · obtain ⟨hout, -⟩ := le_of_rangeFault_some hfault
    simp [Nat.not_lt.2 hout]

/-- Settles O26: the response 1 left NOW in the slot's mark, so the second test measures from there. -/
theorem elapsedReArms : Obligations.ElapsedReArms := by
  intro slot d t s u v hs hfirst hone hsecond
  obtain ⟨hin, hd⟩ := (tmElapsed_response_eq_one_iff hfirst).1 hone
  have hu : u = { s.writeMark slot.toNat s.now with response := some 1 } := by
    rw [gap, ← toNat_gap16] at hd
    rw [exec_tmElapsed_due hin hd] at hfirst
    cases hfirst
    rfl
  have hmark : State.readMark { u with now := t } slot.toNat = s.now := by
    rw [hu]
    exact (readMark_writeMark_inRange hs hin s.now).1
  have hin' : slot.toNat < u.cfg.timerSlots := by rw [hu]; exact hin
  rw [tmElapsed_response_eq_one_iff hsecond, hmark]
  exact and_iff_right hin'

/-! ### What each timer command answers -/

/-- Settles O22, by the command's row and its meaning. -/
theorem tmSetResult : Obligations.TmSetResult :=
  ⟨issues_of_row (r := ⟨0x01, true, false, fun _ b => .tmSet b⟩) rfl,
    fun t s => exec_of_faultOf_none (i := .tmSet t) (s := s) rfl⟩

/-- Settles O23, by the mark the command writes. -/
theorem tmMarkResult : Obligations.TmMarkResult :=
  ⟨issues_of_row (r := ⟨0x02, false, true, fun a _ => .tmMark a⟩) rfl,
    fun _ s hs => ⟨fun hin => ⟨_, exec_tmMark_inRange hin, rfl, readMark_writeMark_inRange hs hin s.now⟩,
      exec_tmMark_outOfRange⟩⟩

/-- Settles O24, by whether the test is due and the mark the command then writes. -/
theorem tmElapsedResult : Obligations.TmElapsedResult := by
  refine ⟨issues_of_row (r := ⟨0x03, false, false, fun a b => .tmElapsed a b⟩) rfl, ?_⟩
  intro slot d s hs
  rw [gap, ← toNat_gap16]
  refine ⟨fun hin => ⟨fun hdue => ?_, fun hnotDue => ?_⟩, exec_tmElapsed_outOfRange⟩
  · exact ⟨_, exec_tmElapsed_due hin hdue, rfl, readMark_writeMark_inRange hs hin s.now⟩
  · exact exec_tmElapsed_notDue hin (Nat.not_le.2 hnotDue)

end Sys2Proof.Proofs

/-! PROOFS. 41_debouncer.md: the edge filter of one input, what every command does to it, and the
statements of the debouncer's commands and laws settled from that. -/

namespace Sys2Proof.Proofs

open Sys2Proof.Machine Sys2Proof.Claims

/-! ### The edge filter of one input -/

/-- The state of one input: (RAW, CHG, CNT, STABLE), as `filterState` reads it (41_debouncer.md R126). -/
abbrev EdgeFilter := Bool × Bool × Nibble × Bool

/-- Input i exists and lies in byte j (41_debouncer.md R120). -/
abbrev InByte (c : Config) (j i : Nat) : Prop := (8 * j ≤ i ∧ i < 8 * j + 8) ∧ i < c.inputCount

/-- The rows of DB_SAMPLE for the sample bit x (41_debouncer.md R126). -/
def filterSample (c : Config) (x : Bool) : EdgeFilter → EdgeFilter
  | (raw, chg, cnt, stable) =>
    if x = raw then (raw, chg, cnt, stable) else (x, true, BitVec.ofNat 4 (count c x), stable)

/-- The rows of DB_TICK (41_debouncer.md R126). -/
def filterTick : EdgeFilter → EdgeFilter
  | (raw, chg, cnt, stable) =>
    if chg then if cnt = 1 then (raw, false, 0, raw) else (raw, true, cnt - 1, stable)
    else (raw, chg, cnt, stable)

/-- What one command that completes does to the edge filter of input i (41_debouncer.md R120, R124,
R126). -/
def filterStep (c : Config) (i : Nat) (cmd : Instr) (f : EdgeFilter) : EdgeFilter :=
  match cmd with
  | .dbSample j v => if InByte c j.toNat i then filterSample c (v.getLsbD (i - 8 * j.toNat)) f else f
  | .dbTick => if i < c.inputCount then filterTick f else f
  | .dbWrstable j v =>
    if InByte c j.toNat i then (f.1, f.2.1, f.2.2.1, v.getLsbD (i - 8 * j.toNat)) else f
  | .tmSet _ | .tmMark _ | .tmElapsed _ _ | .dbRdstable _ | .ckInit | .ckUpdate _ | .ckRead
  | .ckVerify _ | .rxArm _ | .rxByte _ _ | .rxPoll _ | .rxStatus | .rxClrerr | .rxRdbuf _ => f

/-- The levels a completed command reports for input i (41_debouncer.md R126). -/
def filterReport (c : Config) (i : Nat) (cmd : Instr) (f : EdgeFilter) : List Bool :=
  if cmd = .dbTick ∧ i < c.inputCount ∧ f.2.1 = true ∧ f.2.2.1 = 1 then [f.1] else []

theorem filterState_response (s : State) (r : Option Half) (i : Nat) :
    filterState { s with response := r } i = filterState s i := rfl

/-! ### DB_SAMPLE and DB_WRSTABLE, input by input -/

theorem filterState_sampleByte {s : State} (hs : s.Shaped) (j : Half) (v : Byte) (i : Nat) :
    filterState (sampleByte j.toNat v s) i = filterStep s.cfg i (.dbSample j v) (filterState s i) := by
  obtain ⟨hframe, -, -, -, hread⟩ := sampleByte_spec j.toNat v s hs
  generalize sampleByte j.toNat v s = t at *
  have hstable : t.readStable i = s.readStable i := by rw [hframe]; rfl
  simp only [filterState, hstable]
  simp only [filterStep, filterSample]
  by_cases hin : InByte s.cfg j.toNat i
  · obtain ⟨⟨hlo, hhi⟩, hN⟩ := hin
    rw [if_pos ⟨⟨hlo, hhi⟩, hN⟩]
    by_cases hx : v.getLsbD (i - 8 * j.toNat) = s.readRaw i
    · obtain ⟨hr, hc, hn⟩ := (hread i).2 fun ⟨_, _, _, hne⟩ => hne hx
      rw [if_pos hx, hr, hc, hn]
    · obtain ⟨hr, hc, hn⟩ := (hread i).1 ⟨hlo, hhi, hN, hx⟩
      rw [if_neg hx, hr, hc, hn]
      rfl
  · obtain ⟨hr, hc, hn⟩ := (hread i).2 fun ⟨hlo, hhi, hN, _⟩ => hin ⟨⟨hlo, hhi⟩, hN⟩
    rw [if_neg hin, hr, hc, hn]

/-- A sample keeps the sizes of the arrays (10_state.md R24, R27, R29). -/
theorem sampleByte_shaped {s : State} (hs : s.Shaped) (j : Nat) (v : Byte) : (sampleByte j v s).Shaped := by
  obtain ⟨hframe, hraw, hchg, hcnt, -⟩ := sampleByte_spec j v s hs
  generalize sampleByte j v s = t at *
  have hcfg : t.cfg = s.cfg := by rw [hframe]
  have hmark : t.mark = s.mark := by rw [hframe]
  have hstable : t.stable = s.stable := by rw [hframe]
  simpa only [State.Shaped, hcfg, hmark, hraw, hchg, hcnt, hstable] using hs

theorem filterState_writeStableByte {s : State} (hs : s.Shaped) (j : Half) (v : Byte) (i : Nat) :
    filterState (writeStableByte j.toNat v s) i
      = filterStep s.cfg i (.dbWrstable j v) (filterState s i) := by
  obtain ⟨hframe, -, hread⟩ := writeStableByte_spec j.toNat v s hs
  generalize writeStableByte j.toNat v s = t at *
  have hraw : t.readRaw i = s.readRaw i := by rw [hframe]; rfl
  have hchg : t.readChg i = s.readChg i := by rw [hframe]; rfl
  have hcnt : t.readCnt i = s.readCnt i := by rw [hframe]; rfl
  simp only [filterStep, filterState, hraw, hchg, hcnt, hread i, InByte, and_assoc]
  split <;> rfl

/-! ### DB_TICK, input by input -/

/-- The count before the last tick is 1 (41_debouncer.md R122, R126). -/
theorem expiring_eq_expires (s : State) (i : Nat) : expiring s i = expires s i := by
  simp only [expiring, changing, expires, sub_eq_zero]

theorem filterState_tickAll {s : State} (hs : s.Shaped) (i : Nat) :
    filterState (tickAll s) i = filterStep s.cfg i .dbTick (filterState s i) := by
  obtain ⟨hframe, -, hread⟩ := tickAll_spec s hs
  obtain ⟨hcnt, hchg, hstable⟩ := hread i
  generalize tickAll s = t at *
  have hraw : t.readRaw i = s.readRaw i := by rw [hframe]; rfl
  simp only [filterState, hraw, hcnt, hchg, hstable, expiring_eq_expires, changing, expires]
  simp only [filterStep, filterTick]
  by_cases hN : i < s.cfg.inputCount
  · by_cases hc : s.readChg i = true
    · by_cases hone : s.readCnt i = 1
      · simp [hN, hc, hone]
      · simp only [hN, hc, hone, if_true, if_false, decide_true, decide_false, Bool.and_false,
          Bool.and_self, Bool.false_eq_true]
    · simp [hN, hc]
  · simp [hN]

/-! ### The events of a tick -/

theorem sum_bits_lt (f : Nat → Bool) (m : Nat) :
    ((List.range m).map fun k => if f k then 2 ^ k else 0).sum < 2 ^ m := by
  induction m with
  | zero => simp
  | succ m ih =>
    rw [List.range_succ, List.map_append, List.sum_append, Nat.pow_succ]
    simp only [List.map_cons, List.map_nil, List.sum_cons, List.sum_nil]
    split <;> omega

/-- The bits of a sum of distinct powers of two are the terms of the sum. -/
theorem testBit_sum_bits (f : Nat → Bool) (m k : Nat) :
    (((List.range m).map fun k => if f k then 2 ^ k else 0).sum).testBit k = (decide (k < m) && f k) := by
  induction m with
  | zero => simp
  | succ m ih =>
    have hlt := sum_bits_lt f m
    rw [List.range_succ, List.map_append, List.sum_append]
    simp only [List.map_cons, List.map_nil, List.sum_cons, List.sum_nil, Nat.add_zero]
    generalize ((List.range m).map fun k => if f k then 2 ^ k else 0).sum = n at *
    rw [Nat.add_comm]
    rcases Nat.lt_trichotomy k m with hk | rfl | hk
    · have hsame : ((if f m then 2 ^ m else 0) + n).testBit k = n.testBit k := by
        split
        · exact Nat.testBit_two_pow_add_gt hk n
        · rw [Nat.zero_add]
      rw [hsame, ih, decide_eq_true hk, decide_eq_true (Nat.lt_succ_of_lt hk)]
    · have hzero : n.testBit k = false := Nat.testBit_lt_two_pow hlt
      cases hf : f k
      · simp [hzero]
      · simp [Nat.testBit_two_pow_add_eq, hzero]
    · have hsmall : (if f m then 2 ^ m else 0) + n < 2 ^ k := by
        have hpow : 2 ^ (m + 1) ≤ 2 ^ k := Nat.pow_le_pow_right (by decide) hk
        rw [Nat.pow_succ] at hpow
        split <;> omega
      rw [Nat.testBit_lt_two_pow hsmall, decide_eq_false (by omega), Bool.false_and]

theorem getLsbD_byteOfBits (f : Nat → Bool) (k : Nat) :
    (byteOfBits f).getLsbD k = (decide (k < 8) && f k) := by
  rw [byteOfBits, BitVec.getLsbD_ofNat, testBit_sum_bits]
  cases decide (k < 8) <;> rfl

theorem eq_byteOfBits {b : Byte} {f : Nat → Bool}
    (h : ∀ k, b.getLsbD k = (decide (k < 8) && f k)) : b = byteOfBits f :=
  BitVec.eq_of_getLsbD_eq fun k _ => by rw [h, getLsbD_byteOfBits]

theorem byteOfBits_eq_zero_iff (f : Nat → Bool) : byteOfBits f = 0 ↔ (List.range 8).filter f = [] := by
  rw [List.filter_eq_nil_iff]
  constructor
  · intro h k hk
    have hbit := getLsbD_byteOfBits f k
    rw [h, decide_eq_true (List.mem_range.1 hk)] at hbit
    simpa using hbit.symm
  · intro h
    refine BitVec.eq_of_getLsbD_eq fun k hk => ?_
    rw [getLsbD_byteOfBits, Bool.eq_false_iff.2 (h k (List.mem_range.2 hk))]
    simp

/-- DB_TICK appends the events of byte j in its turn (41_debouncer.md R122). -/
theorem tickByte_ev {s : State} (hs : s.Shaped) (j : Nat) :
    (tickByte s j).ev = s.ev ++ tickByteEvents s j := by
  obtain ⟨hframe, -, ⟨mask, hmask, hev⟩, hread⟩ := tickByte_spec s hs j
  have hcfg : (tickByte s j).cfg = s.cfg := by rw [hframe]
  simp only [expiring_eq_expires] at hmask hread
  have hstable : (tickByte s j).stableByte j = byteOfBits fun k => decide (8 * j + k < s.cfg.inputCount)
      && (if expires s (8 * j + k) then s.readRaw (8 * j + k) else s.readStable (8 * j + k)) :=
    eq_byteOfBits fun k => by
      obtain ⟨-, -, hst⟩ := hread (8 * j + k)
      rw [State.stableByte, getLsbD_presentByte, hcfg, ← State.readStable, hst, Bool.and_assoc]
      by_cases hk : k < 8 <;> simp [hk]
  rw [hev, byteReport, tickByteEvents, hstable, eq_byteOfBits hmask]
  simp only [expiring_eq_expires, byteOfBits_eq_zero_iff]
  split <;> rename_i hhits
  · rw [hhits]; rfl
  · rfl

/-- The events of byte j depend on the inputs from 8j on alone. -/
theorem tickByteEvents_congr {s t : State} {j : Nat} (hcfg : t.cfg = s.cfg)
    (h : ∀ i, 8 * j ≤ i → filterState t i = filterState s i) : tickByteEvents t j = tickByteEvents s j := by
  have hsame : ∀ k, t.readRaw (8 * j + k) = s.readRaw (8 * j + k)
      ∧ t.readChg (8 * j + k) = s.readChg (8 * j + k) ∧ t.readCnt (8 * j + k) = s.readCnt (8 * j + k)
      ∧ t.readStable (8 * j + k) = s.readStable (8 * j + k) := fun k => by
    simpa only [filterState, Prod.mk.injEq] using h (8 * j + k) (Nat.le_add_right _ _)
  have hexp : (fun k => expires t (8 * j + k)) = fun k => expires s (8 * j + k) :=
    funext fun k => by simp only [expires, hcfg, hsame]
  rw [tickByteEvents, tickByteEvents, hexp]
  simp only [hcfg, hsame, congrFun hexp]

theorem tickBytes_ev {s : State} (hs : s.Shaped) (m : Nat) :
    ((List.range m).foldl tickByte s).ev = s.ev ++ (List.range m).flatMap (tickByteEvents s) := by
  induction m with
  | zero => simp
  | succ m ih =>
    obtain ⟨hframe, hshape, hread⟩ := tickBytes_spec s hs m
    rw [List.range_succ, List.foldl_append, List.foldl_cons, List.foldl_nil, List.flatMap_append,
      ← List.append_assoc, ← ih, tickByte_ev hshape]
    congr 1
    rw [List.flatMap_singleton]
    refine tickByteEvents_congr (by rw [hframe]) fun i hi => ?_
    have hlater : ¬ i < 8 * m := Nat.not_lt.2 hi
    have hraw : ((List.range m).foldl tickByte s).readRaw i = s.readRaw i := by rw [hframe]; rfl
    obtain ⟨hcnt, hchg, hstable⟩ := hread i
    simp only [filterState, hraw, hcnt, hchg, hstable, hlater, false_and, if_false]

/-- DB_TICK appends the events of the rule, in its order (41_debouncer.md R122). -/
theorem tickAll_ev {s : State} (hs : s.Shaped) : (tickAll s).ev = s.ev ++ tickEvents s :=
  tickBytes_ev hs (byteCount s.cfg)

/-! ### The reports for one input -/

@[simp] theorem changesOf_append (i : Nat) (ev ev' : List Event) :
    changesOf i (ev ++ ev') = changesOf i ev ++ changesOf i ev' :=
  List.filterMap_append

@[simp] theorem changesOf_nil (i : Nat) : changesOf i [] = [] := rfl

@[simp] theorem changesOf_dbChange (i n : Nat) (level : Bool) :
    changesOf i [.dbChange n level] = if n = i then [level] else [] := by
  by_cases h : n = i <;> simp [changesOf, h]

/-- Among the DbChange records of the first m inputs of byte j, input i has one if it expires. -/
theorem changesOf_expired (s : State) (i j m : Nat) :
    changesOf i (((List.range m).filter fun k => expires s (8 * j + k)).map fun k =>
        .dbChange (8 * j + k) (s.readRaw (8 * j + k)))
      = if (8 * j ≤ i ∧ i < 8 * j + m) ∧ expires s i = true then [s.readRaw i] else [] := by
  induction m with
  | zero => rw [if_neg (by omega)]; rfl
  | succ m ih =>
    rw [List.range_succ, List.filter_append, List.map_append, changesOf_append, ih]
    by_cases hi : 8 * j + m = i
    · subst hi
      cases he : expires s (8 * j + m) <;> simp [he]
    · have hrange : (8 * j ≤ i ∧ i < 8 * j + (m + 1)) ↔ (8 * j ≤ i ∧ i < 8 * j + m) := by omega
      cases he : expires s (8 * j + m) <;> simp [he, hi, hrange]

theorem changesOf_tickByteEvents (s : State) (i j : Nat) :
    changesOf i (tickByteEvents s j)
      = if (8 * j ≤ i ∧ i < 8 * j + 8) ∧ expires s i = true then [s.readRaw i] else [] := by
  rw [← changesOf_expired s i j 8, tickByteEvents]
  split <;> rename_i hhits
  · rw [hhits]; rfl
  · rw [changesOf_append]; exact List.append_nil _

theorem changesOf_tickBytes (s : State) (i m : Nat) :
    changesOf i ((List.range m).flatMap (tickByteEvents s))
      = if i < 8 * m ∧ expires s i = true then [s.readRaw i] else [] := by
  induction m with
  | zero => simp
  | succ m ih =>
    rw [List.range_succ, List.flatMap_append, changesOf_append, ih, List.flatMap_singleton,
      changesOf_tickByteEvents]
    by_cases hbefore : i < 8 * m
    · have hafter : ¬ 8 * m ≤ i := by omega
      have hin : i < 8 * (m + 1) := by omega
      simp [hbefore, hafter, hin]
    · have hrange : (8 * m ≤ i ∧ i < 8 * m + 8) ↔ i < 8 * (m + 1) := by omega
      simp [hbefore, hrange]

/-- A tick reports input i exactly when its countdown ends (41_debouncer.md R126). -/
theorem changesOf_tickAll {s : State} (hs : s.Shaped) (i : Nat) :
    changesOf i (tickAll s).ev
      = changesOf i s.ev ++ filterReport s.cfg i .dbTick (filterState s i) := by
  rw [tickAll_ev hs, changesOf_append, tickEvents, changesOf_tickBytes]
  have hexp : (i < 8 * byteCount s.cfg ∧ expires s i = true)
      ↔ (i < s.cfg.inputCount ∧ s.readChg i = true ∧ s.readCnt i = 1) := by
    simp only [expires, Bool.and_eq_true, decide_eq_true_eq, byteCount, and_assoc]
    exact and_iff_right_of_imp fun ⟨hN, _⟩ => by omega
  simp only [hexp, filterReport, filterState, true_and]

@[simp] theorem changesOf_rxError (i : Nat) (code : ErrCode) : changesOf i [.rxError code] = [] := rfl

@[simp] theorem changesOf_frameEvent (i : Nat) (s : State) : changesOf i [frameEvent s] = [] := rfl

theorem changesOf_complete (i : Nat) (s : State) : changesOf i (complete s).ev = changesOf i s.ev := by
  cases hverdict : checksumVerify s.cfg s.rxCk s.rxAcc with
  | true => simp [complete_good hverdict]
  | false => simp [complete_bad hverdict]

@[simp] theorem startFrame_ev (v : Byte) (t : Half) (s : State) : (startFrame v t s).ev = s.ev := by
  simp [startFrame]

theorem changesOf_acceptHeader (i : Nat) (v : Byte) (s : State) :
    changesOf i (acceptHeader v s).ev = changesOf i s.ev := by
  have hfrom : ∀ u, changesOf i (acceptFrom v u).ev = changesOf i u.ev := fun u => by
    simp only [acceptFrom, addressCheck]
    split_ifs <;> simp
  have hlen : ∀ u, changesOf i (acceptLen v u).ev = changesOf i u.ev := fun u => by
    simp only [acceptLen, lengthCheck]
    split_ifs <;> simp
  simp only [acceptHeader]
  split
  · exact hfrom _
  · exact hlen _

theorem acceptPayload_ev (v : Byte) (s : State) : (acceptPayload v s).ev = s.ev := by
  simp only [acceptPayload]
  split <;> simp

theorem changesOf_acceptChecksum (i : Nat) (v : Byte) (s : State) :
    changesOf i (acceptChecksum v s).ev = changesOf i s.ev := by
  simp only [acceptChecksum]
  split_ifs
  · exact changesOf_complete i _
  · rfl
  · exact changesOf_complete i _

theorem changesOf_acceptByte (i : Nat) (v : Byte) (s : State) :
    changesOf i (acceptByte v s).ev = changesOf i s.ev := by
  rcases rxState_cases s with h | h | h | h | h | h <;> simp only [acceptByte, h]
  · exact changesOf_acceptHeader i v s
  · rw [acceptPayload_ev]
  · exact changesOf_acceptChecksum i v s

@[simp] theorem lateByte_ev (v : Byte) (t : Half) (s : State) : (lateByte v t s).ev = s.ev := by
  unfold lateByte
  split <;> simp

theorem changesOf_frameByte (i : Nat) (v : Byte) (t : Half) (s : State) :
    changesOf i (frameByte v t s).ev = changesOf i s.ev := by
  unfold frameByte
  split
  · exact changesOf_acceptByte i v _
  · simp

/-- A received byte reports no input (43_receiver.md R207). -/
theorem changesOf_receiveByte (i : Nat) (v : Byte) (t : Half) (s : State) :
    changesOf i (receiveByte v t s).ev = changesOf i s.ev := by
  rcases rxState_cases s with h | h | h | h | h | h
  · rw [receiveByte_idle h, idleByte]
    split <;> simp
  · rw [receiveByte_awaitStart h, awaitedByte]
    split <;> simp
  · rw [receiveByte_inFrame (.inl h)]; exact changesOf_frameByte i v t s
  · rw [receiveByte_inFrame (.inr (.inl h))]; exact changesOf_frameByte i v t s
  · rw [receiveByte_inFrame (.inr (.inr h))]; exact changesOf_frameByte i v t s
  · rw [receiveByte_complete h]

/-! ### What every command does to one input -/

/-- A command that is no DB_TICK reports no input (10_state.md R41, R42). -/
theorem exec_changesOf_of_ne_dbTick {cmd : Instr} {s t : State} (htick : cmd ≠ .dbTick)
    (h : exec cmd s = .next t) (i : Nat) : changesOf i t.ev = changesOf i s.ev := by
  by_cases hev : t.ev = s.ev
  · rw [hev]
  · obtain ⟨-, -, -, -, -, -, -, -, -, -, -, -, hwriters⟩ :=
      registersWrittenOnlyByTheirCommands cmd s t h
    rcases hwriters hev with rfl | ⟨v, x, rfl⟩ | ⟨x, rfl⟩
    · exact absurd rfl htick
    · cases h
      exact changesOf_receiveByte i v x s
    · cases h
      rcases pollWindows_cases x s with hp | ⟨code, pos, -, hp⟩ <;> simp [hp]

/-- A command of another unit leaves the debouncer's arrays as they are (10_state.md R25 to R28). -/
theorem exec_filterState_of_other {cmd : Instr} {s t : State} (h : exec cmd s = .next t)
    (hsample : ∀ j v, cmd ≠ .dbSample j v) (htick : cmd ≠ .dbTick)
    (hwrite : ∀ j v, cmd ≠ .dbWrstable j v) (i : Nat) : filterState t i = filterState s i := by
  obtain ⟨-, -, -, -, hraw, hchgcnt, hstable, -⟩ := registersWrittenOnlyByTheirCommands cmd s t h
  have hraw : t.raw = s.raw := by
    by_contra hne
    obtain ⟨j, v, hc⟩ := hraw hne
    exact hsample j v hc
  have hnone : ¬ (t.chg ≠ s.chg ∨ t.cnt ≠ s.cnt) := fun hne => by
    rcases hchgcnt hne with ⟨j, v, hc⟩ | hc
    · exact hsample j v hc
    · exact htick hc
  have hstable : t.stable = s.stable := by
    by_contra hne
    rcases hstable hne with hc | ⟨j, v, hc, -⟩
    · exact htick hc
    · exact hwrite j v hc
  obtain ⟨hchg, hcnt⟩ := not_or.1 hnone
  simp only [filterState, State.readRaw, State.readChg, State.readCnt, State.readStable, hraw,
    not_not.1 hchg, not_not.1 hcnt, hstable]

/-- Everything a command can do to input i: it completes and moves the edge filter of the input by its
rows, or it faults and changes nothing (41_debouncer.md R120, R126; 60_exceptions.md R251). -/
theorem exec_filter_cases {cmd : Instr} {s t : State} (hs : s.Shaped) (h : exec cmd s = .next t)
    (i : Nat) :
    (faultOf cmd s = none ∧ filterState t i = filterStep s.cfg i cmd (filterState s i)
        ∧ changesOf i t.ev = changesOf i s.ev ++ filterReport s.cfg i cmd (filterState s i))
      ∨ (faultOf cmd s ≠ none ∧ filterState t i = filterState s i
        ∧ changesOf i t.ev = changesOf i s.ev) := by
  have hsilent : cmd ≠ .dbTick →
      changesOf i t.ev = changesOf i s.ev ++ filterReport s.cfg i cmd (filterState s i) := fun hne => by
    rw [exec_changesOf_of_ne_dbTick hne h, filterReport, if_neg fun hc => hne hc.1, List.append_nil]
  rcases exec_next_cases h with ⟨hf, ht⟩ | ⟨code, hf, rfl⟩
  · refine .inl ⟨hf, ?_⟩
    cases cmd with
    | dbSample j v =>
      refine ⟨?_, hsilent nofun⟩
      rw [ht, filterState_response, ← filterState_sampleByte hs, effect]
    | dbTick =>
      rw [ht, filterState_response, ← filterState_tickAll hs, ← changesOf_tickAll hs, effect]
      exact ⟨rfl, rfl⟩
    | dbWrstable j v =>
      refine ⟨?_, hsilent nofun⟩
      rw [ht, filterState_response, ← filterState_writeStableByte hs, effect]
    | tmSet _ | tmMark _ | tmElapsed _ _ | dbRdstable _ | ckInit | ckUpdate _ | ckRead | ckVerify _
    | rxArm _ | rxByte _ _ | rxPoll _ | rxStatus | rxClrerr | rxRdbuf _ =>
      exact ⟨exec_filterState_of_other h nofun nofun nofun i, hsilent nofun⟩
  · exact .inr ⟨by rw [hf]; nofun, rfl, rfl⟩

/-- A run of commands goes on from what its first command answers. -/
theorem execAll_cons_next {cmd : Instr} {is : List Instr} {s u : State} :
    execAll (cmd :: is) s = .next u ↔ ∃ t, exec cmd s = .next t ∧ execAll is t = .next u := by
  rw [execAll]
  cases exec cmd s <;> simp

/-! ### The debouncer's commands -/

/-- Settles O27, by the command's row and what its loop does to each input. -/
theorem dbSampleResult : Obligations.DbSampleResult := by
  refine ⟨issues_of_row (r := ⟨0x10, false, false, fun a b => .dbSample b a⟩) rfl, ?_⟩
  intro j v s hs
  refine ⟨fun hin => ?_, exec_dbSample_outOfRange⟩
  have hexec := exec_dbSample_inRange (v := v) hin
  obtain ⟨hframe, -, -, -, hread⟩ := sampleByte_spec j.toNat v s hs
  generalize sampleByte j.toNat v s = t at *
  refine ⟨_, hexec, ?_, fun i => ?_⟩
  · conv_lhs => rw [hframe]
  · obtain ⟨hhit, hmiss⟩ := hread i
    split <;> rename_i hcond
    · obtain ⟨⟨hlo, hhi⟩, hN, hne⟩ := hcond
      exact hhit ⟨hlo, hhi, hN, hne⟩
    · exact hmiss fun ⟨hlo, hhi, hN, hne⟩ => hcond ⟨⟨hlo, hhi⟩, hN, hne⟩

/-- Settles O28, by the command's row, the events of its loops and what they do to each input. -/
theorem dbTickResult : Obligations.DbTickResult := by
  refine ⟨issues_of_row (r := ⟨0x11, true, true, fun _ _ => .dbTick⟩) rfl, fun s hs => ?_⟩
  obtain ⟨hframe, -, hread⟩ := tickAll_spec s hs
  refine ⟨_, exec_dbTick s, ?_, tickAll_ev hs, fun i => ?_⟩
  · conv_lhs => rw [hframe]
  · obtain ⟨hcnt, hchg, hstable⟩ := hread i
    rw [expiring_eq_expires] at hchg hstable
    split <;> rename_i hcond
    · obtain ⟨hN, hc⟩ := hcond
      have hexp : expires s i = decide (s.readCnt i = 1) := by simp [expires, hN, hc]
      refine ⟨hcnt.trans (if_pos (by simp [changing, hN, hc])), hchg.trans ?_, hstable.trans ?_⟩
      · by_cases hone : s.readCnt i = 1 <;> simp [hexp, hone, hc]
      · simp [hexp]
    · have hquiet : changing s i = false := by simpa [changing] using hcond
      have hkeep : expires s i = false := by
        rw [← expiring_eq_expires, expiring, hquiet, Bool.false_and]
      exact ⟨hcnt.trans (by rw [hquiet]; rfl), hchg.trans (by rw [hkeep]; rfl),
        hstable.trans (by rw [hkeep]; rfl)⟩

/-- Settles O29, from what the two commands do to the edge filter of an input. -/
theorem edgeFilterMachine : Obligations.EdgeFilterMachine := by
  intro s i hs hN
  refine ⟨fun j v hlo hhi => ?_, ?_⟩
  · obtain ⟨t, ht⟩ := exec_answers (.dbSample j v) s
    have hin : ¬ (s.cfg.inputCount + 7) / 8 ≤ j.toNat := by omega
    rcases exec_filter_cases hs ht i with ⟨-, hfilter, -⟩ | ⟨hf, -⟩
    · refine ⟨t, ht, exec_changesOf_of_ne_dbTick (cmd := .dbSample j v) nofun ht i, ?_⟩
      rw [hfilter]
      simp only [filterStep, if_pos (show InByte s.cfg j.toNat i from ⟨⟨hlo, hhi⟩, hN⟩)]
      rfl
    · exact absurd (if_neg hin) hf
  · obtain ⟨t, ht⟩ := exec_answers .dbTick s
    rcases exec_filter_cases hs ht i with ⟨-, hfilter, hreport⟩ | ⟨hf, -⟩
    · refine ⟨t, ht, ?_⟩
      rw [hfilter, hreport]
      simp only [filterState]
      simp only [filterStep, filterReport, filterTick, hN, if_true, true_and]
      refine ⟨fun hc _ => ?_, fun hc htwo => ?_, fun hc hone => ?_⟩
      · simp [hc]
      · have hne : s.readCnt i ≠ 1 := fun h => by rw [h] at htwo; exact absurd htwo (by decide)
        simp only [hc, hne, if_true, if_false, and_false, List.append_nil, and_self]
      · simp [hc, hone]
    · exact absurd rfl hf

/-- Settles O30, by the command's row and the bits of the presented byte. -/
theorem dbRdstableResult : Obligations.DbRdstableResult := by
  refine ⟨issues_of_row (r := ⟨0x12, true, false, fun _ b => .dbRdstable b⟩) rfl, fun j s =>
    ⟨fun hin => ⟨_, exec_dbRdstable_inRange hin, fun k => ?_⟩, exec_dbRdstable_outOfRange⟩⟩
  rw [BitVec.getLsbD_setWidth, State.stableByte, getLsbD_presentByte]
  by_cases hk : k < 8
  · have hk16 : k < 16 := by omega
    simp [hk, hk16, State.readStable]
  · simp [hk]

/-- Settles O31, by the command's row and what its loop does to each stable bit. -/
theorem dbWrstableResult : Obligations.DbWrstableResult := by
  refine ⟨issues_of_row (r := ⟨0x13, false, false, fun a b => .dbWrstable b a⟩) rfl, ?_⟩
  intro j v s hs
  refine ⟨fun hin => ⟨fun halias => ?_, exec_dbWrstable_notAlias hin⟩, exec_dbWrstable_outOfRange⟩
  have hexec := exec_dbWrstable_inRange (v := v) hin halias
  obtain ⟨hframe, -, hread⟩ := writeStableByte_spec j.toNat v s hs
  generalize writeStableByte j.toNat v s = t at *
  refine ⟨_, hexec, ?_, fun i => ?_⟩
  · conv_lhs => rw [hframe]
  · simp only [and_assoc]
    exact hread i

/-! ### The laws of the edge filter -/

/-- The loops of DB_TICK with no input changing (41_debouncer.md R128). -/
theorem tickAll_quiet {s : State} (h : ∀ i, i < s.cfg.inputCount → s.readChg i = false) :
    tickAll s = s := by
  have hbit : ∀ j k, tickBit j (s, 0) k = (s, 0) := fun j k => by
    have hidle : ¬ (decide (8 * j + k < s.cfg.inputCount) && s.readChg (8 * j + k)) = true := by
      simpa using h (8 * j + k)
    exact if_neg hidle
  have hbyte : ∀ j, tickByte s j = s := fun j => by
    simp only [tickByte, List.foldl_fixed' (hbit j), if_true]
  exact List.foldl_fixed' hbyte _

/-- Settles O32, since no bit of DB_TICK's loops does anything. -/
theorem quietTickChangesNothing : Obligations.QuietTickChangesNothing := by
  intro s h
  rw [exec_dbTick, tickAll_quiet h]

/-- A sample in range completes: what it leaves of the block and of each input (41_debouncer.md R121). -/
theorem exec_dbSample_completes {j : Half} {v : Byte} {s t : State} (hs : s.Shaped)
    (hin : j.toNat < byteCount s.cfg) (h : exec (.dbSample j v) s = .next t) :
    t.cfg = s.cfg ∧ t.Shaped ∧ t.ev = s.ev
      ∧ ∀ i, filterState t i = filterStep s.cfg i (.dbSample j v) (filterState s i) := by
  rw [exec_dbSample_inRange hin] at h
  have hframe := sampleByte_frame j.toNat v s
  have hshape := sampleByte_shaped hs j.toNat v
  have hfilter := filterState_sampleByte hs j v
  generalize sampleByte j.toNat v s = u at *
  cases h
  exact ⟨by rw [hframe], hshape, by rw [hframe], hfilter⟩

/-- Samples of different bytes commute on every input, which lies in at most one of them. -/
theorem filterStep_dbSample_comm {j k : Half} (hjk : j ≠ k) (c : Config) (i : Nat) (v w : Byte)
    (f : EdgeFilter) :
    filterStep c i (.dbSample k w) (filterStep c i (.dbSample j v) f)
      = filterStep c i (.dbSample j v) (filterStep c i (.dbSample k w) f) := by
  have hne : j.toNat ≠ k.toNat := fun h => hjk (BitVec.eq_of_toNat_eq h)
  simp only [filterStep]
  by_cases hj : InByte c j.toNat i
  · have hk : ¬ InByte c k.toNat i := fun hk => by omega
    rw [if_neg hk, if_neg hk]
  · rw [if_neg hj, if_neg hj]

/-- Settles O34: the two samples commute on every input, and neither emits. -/
theorem sampleOrderImmaterial : Obligations.SampleOrderImmaterial := by
  intro j k v w s hs hjk hj hk
  obtain ⟨a, ha⟩ := exec_answers (.dbSample j v) s
  obtain ⟨hacfg, hashape, haev, hafilter⟩ := exec_dbSample_completes hs hj ha
  obtain ⟨t, ht⟩ := exec_answers (.dbSample k w) a
  obtain ⟨-, -, htev, htfilter⟩ := exec_dbSample_completes hashape (by rw [hacfg]; exact hk) ht
  obtain ⟨b, hb⟩ := exec_answers (.dbSample k w) s
  obtain ⟨hbcfg, hbshape, hbev, hbfilter⟩ := exec_dbSample_completes hs hk hb
  obtain ⟨u, hu⟩ := exec_answers (.dbSample j v) b
  obtain ⟨-, -, huev, hufilter⟩ := exec_dbSample_completes hbshape (by rw [hbcfg]; exact hj) hu
  refine ⟨t, execAll_cons_next.2 ⟨a, ha, execAll_cons_next.2 ⟨t, ht, rfl⟩⟩,
    u, execAll_cons_next.2 ⟨b, hb, execAll_cons_next.2 ⟨u, hu, rfl⟩⟩, fun i => ?_,
    htev.trans haev, huev.trans hbev⟩
  rw [htfilter, hafilter, hacfg, hufilter, hbfilter, hbcfg, filterStep_dbSample_comm hjk]

/-- Settles O35: a command moves the edge filter of an input, and reports it, by the input's own state
and the configuration alone. -/
theorem inputsIndependent : Obligations.InputsIndependent := by
  intro s u s' u' i cmd hs hu hcfg _ hfilter hchanges hcmd hs' hu'
  have hfault : faultOf cmd s = faultOf cmd u := by
    rcases hcmd with rfl | ⟨j, v, rfl | rfl⟩ <;> simp only [faultOf, hcfg]
  rcases exec_filter_cases hs hs' i with ⟨hfs, hf, hc⟩ | ⟨hfs, hf, hc⟩ <;>
    rcases exec_filter_cases hu hu' i with ⟨hfu, hf', hc'⟩ | ⟨hfu, hf', hc'⟩
  · rw [hf, hf', hc, hc', hcfg, hfilter, hchanges]
    exact ⟨rfl, rfl⟩
  · exact absurd (hfault ▸ hfs) hfu
  · exact absurd (hfault ▸ hfu) hfs
  · rw [hf, hf', hc, hc', hfilter, hchanges]
    exact ⟨rfl, rfl⟩

/-! ### Debounce stability -/

theorem ticksIn_cons_dbTick (is : List Instr) : ticksIn (.dbTick :: is) = ticksIn is + 1 :=
  List.count_cons_self

theorem ticksIn_cons_of_ne {cmd : Instr} (h : cmd ≠ .dbTick) (is : List Instr) :
    ticksIn (cmd :: is) = ticksIn is :=
  List.count_cons_of_ne h

/-- Without a tick no input is reported. -/
theorem execAll_changesOf_of_no_tick {is : List Instr} {s t : State} (hticks : ticksIn is = 0)
    (h : execAll is s = .next t) (i : Nat) : changesOf i t.ev = changesOf i s.ev := by
  induction is generalizing s with
  | nil => cases h; rfl
  | cons cmd is ih =>
    obtain ⟨u, hu, hrest⟩ := execAll_cons_next.1 h
    have htick : cmd ≠ .dbTick := fun hc => by
      rw [hc, ticksIn_cons_dbTick] at hticks
      omega
    rw [ticksIn_cons_of_ne htick] at hticks
    rw [ih hticks hrest, exec_changesOf_of_ne_dbTick htick hu]

/-- The countdown C(x) is 1..15 under a legal configuration (00_scope.md R6). -/
theorem count_range {c : Config} (h : configLegal c = true) (x : Bool) :
    1 ≤ count c x ∧ count c x ≤ 15 := by
  simp only [configLegal, Bool.and_eq_true, decide_eq_true_eq] at h
  cases x <;> simp only [count, if_true, Bool.false_eq_true, if_false] <;> omega

/-- Input i of a sound block is changing to x and its count is n (41_debouncer.md R126). -/
def CountsDown (i : Nat) (x : Bool) (n : Nat) (s : State) : Prop :=
  (configLegal s.cfg = true ∧ DebouncerKept s) ∧ i < s.cfg.inputCount
    ∧ ∃ cnt stable, filterState s i = (x, true, cnt, stable) ∧ cnt.toNat = n

/-- A command keeps a legal configuration and the debouncer's invariants (10_state.md R22, R29, R30). -/
theorem exec_keeps_sound {cmd : Instr} {s t : State} (h : exec cmd s = .next t)
    (hs : configLegal s.cfg = true ∧ DebouncerKept s) :
    t.cfg = s.cfg ∧ configLegal t.cfg = true ∧ DebouncerKept t := by
  obtain ⟨hcfg, hkept⟩ := hs
  have hsame : t.cfg = s.cfg := (exec_appendsLegal h).1
  exact ⟨hsame, hsame ▸ hcfg, exec_debouncerKept h hcfg hkept⟩

/-- Between the ticks nothing moves the countdown of an input whose raw value is kept. -/
theorem CountsDown.of_keepsRaw {i n : Nat} {x : Bool} {cmd : Instr} {s t : State}
    (hs : CountsDown i x n s) (hkeep : keepsRaw i x cmd) (htick : cmd ≠ .dbTick)
    (h : exec cmd s = .next t) : CountsDown i x n t := by
  obtain ⟨hsound, hN, cnt, stable, hfilter, hcnt⟩ := hs
  obtain ⟨hcfg, hsound'⟩ := exec_keeps_sound h hsound
  refine ⟨hsound', hcfg ▸ hN, cnt, ?_⟩
  have hstep : ∃ stable', filterStep s.cfg i cmd (x, true, cnt, stable) = (x, true, cnt, stable') := by
    cases cmd with
    | dbSample j v =>
      simp only [filterStep]
      split <;> rename_i hin
      · exact ⟨stable, if_pos (hkeep hin.1)⟩
      · exact ⟨stable, rfl⟩
    | dbTick => exact absurd rfl htick
    | dbWrstable j v =>
      simp only [filterStep]
      split
      · exact ⟨_, rfl⟩
      · exact ⟨stable, rfl⟩
    | tmSet _ | tmMark _ | tmElapsed _ _ | dbRdstable _ | ckInit | ckUpdate _ | ckRead | ckVerify _
    | rxArm _ | rxByte _ _ | rxPoll _ | rxStatus | rxClrerr | rxRdbuf _ => exact ⟨stable, rfl⟩
  rcases exec_filter_cases hsound.2.1 h i with ⟨-, hf, -⟩ | ⟨-, hf, -⟩
  · obtain ⟨stable', hstep⟩ := hstep
    exact ⟨stable', by rw [hf, hfilter, hstep], hcnt⟩
  · exact ⟨stable, hf.trans hfilter, hcnt⟩

/-- A tick takes one off the count, or reports the raw value at the end of it (41_debouncer.md R126). -/
theorem CountsDown.after_dbTick {i n : Nat} {x : Bool} {s t : State} (hs : CountsDown i x n s)
    (h : exec .dbTick s = .next t) :
    (n = 1 → changesOf i t.ev = changesOf i s.ev ++ [x])
      ∧ (1 < n → CountsDown i x (n - 1) t ∧ changesOf i t.ev = changesOf i s.ev) := by
  obtain ⟨hsound, hN, cnt, stable, hfilter, rfl⟩ := hs
  obtain ⟨hcfg, hsound'⟩ := exec_keeps_sound h hsound
  rcases exec_filter_cases hsound.2.1 h i with ⟨-, hf, hreport⟩ | ⟨hfault, -⟩
  · rw [hfilter] at hf hreport
    simp only [filterStep, filterReport, filterTick, hN, if_true, true_and] at hf hreport
    refine ⟨fun hone => ?_, fun hmore => ?_⟩
    · have hcnt : cnt = 1 := BitVec.eq_of_toNat_eq hone
      rw [hreport, if_pos hcnt]
    · have hcnt : cnt ≠ 1 := fun hc => by rw [hc] at hmore; exact absurd hmore (by decide)
      rw [if_neg hcnt] at hf
      refine ⟨⟨hsound', hcfg ▸ hN, _, _, hf, ?_⟩, by rw [hreport, if_neg hcnt, List.append_nil]⟩
      bv_omega
  · exact absurd rfl hfault

/-- From n ticks before the end of the count: nothing before the n-th tick, one report at it
(41_debouncer.md R127). -/
theorem CountsDown.reports_once {i n : Nat} {x : Bool} {is : List Instr} {s t : State}
    (hs : CountsDown i x n s) (hn : 1 ≤ n) (hkeep : ∀ c ∈ is, keepsRaw i x c)
    (h : execAll is s = .next t) :
    (ticksIn is < n → changesOf i t.ev = changesOf i s.ev)
      ∧ (ticksIn is = n → changesOf i t.ev = changesOf i s.ev ++ [x]) := by
  induction is generalizing s n with
  | nil =>
    cases h
    exact ⟨fun _ => rfl, fun hzero => absurd hn (by rw [← hzero]; decide)⟩
  | cons cmd is ih =>
    obtain ⟨u, hu, hrest⟩ := execAll_cons_next.1 h
    obtain ⟨hhead, htail⟩ := List.forall_mem_cons.1 hkeep
    by_cases htick : cmd = .dbTick
    · subst htick
      rw [ticksIn_cons_dbTick]
      obtain ⟨hlast, hmore⟩ := hs.after_dbTick hu
      rcases Nat.eq_or_lt_of_le hn with hone | hlt
      · refine ⟨fun hfew => absurd hfew (by omega), fun hall => ?_⟩
        rw [execAll_changesOf_of_no_tick (by omega) hrest, hlast hone.symm]
      · obtain ⟨hu', hquiet⟩ := hmore hlt
        obtain ⟨hbefore, hat⟩ := ih hu' (by omega) htail hrest
        rw [hquiet] at hbefore hat
        exact ⟨fun hfew => hbefore (by omega), fun hall => hat (by omega)⟩
    · rw [ticksIn_cons_of_ne htick, ← exec_changesOf_of_ne_dbTick htick hu]
      exact ih (hs.of_keepsRaw hhead htick hu) hn htail hrest

/-- Settles O33: the sample starts the countdown of the input at C(x), and the commands after it run the
countdown down. -/
theorem debounceStability : Obligations.DebounceStability := by
  intro s s₁ t i j v is hsound hrun hN hlo hhi hne hsample x hkeep hall _
  obtain ⟨hchecked, hkept⟩ := hsound
  have hlegal : configLegal s.cfg = true := hchecked.resolve_right fun hbad => by
    rw [hrun] at hbad; cases hbad
  have hin : InByte s.cfg j.toNat i := ⟨⟨hlo, hhi⟩, hN⟩
  obtain ⟨hpos, hmax⟩ := count_range hlegal x
  obtain ⟨hcfg, hsound₁⟩ := exec_keeps_sound hsample ⟨hlegal, hkept⟩
  have hbyte : j.toNat < byteCount s.cfg := by unfold byteCount; omega
  obtain ⟨-, -, hev, hfilter⟩ := exec_dbSample_completes hkept.1 hbyte hsample
  have hcounts : CountsDown i x (count s.cfg x) s₁ := by
    refine ⟨hsound₁, hcfg ▸ hN, BitVec.ofNat 4 (count s.cfg x), s.readStable i, ?_, ?_⟩
    · rw [hfilter, filterState]
      simp only [filterStep, if_pos hin, filterSample, if_neg hne]
      rfl
    · rw [BitVec.toNat_ofNat]; omega
  rw [← hev]
  exact hcounts.reports_once hpos hkeep hall

end Sys2Proof.Proofs

/-! PROOFS. 42_checksum.md: the policy functions on numbers, what the generator's commands answer, the
bytes a frame ends in, and what one changed byte does to a checksum of XOR8. -/

namespace Sys2Proof.Proofs

open Sys2Proof.Machine Sys2Proof.Claims

/-! ### The policy functions (42_checksum.md R161 to R164, R169) -/

theorem checksumStart_xor8 {c : Config} (h : c.ckPolicy = .xor8) : checksumStart c = 0 := by
  simp only [checksumStart, h]

theorem checksumFold_xor8 {c : Config} (h : c.ckPolicy = .xor8) (acc : Half) (v : Byte) :
    checksumFold c acc v = acc ^^^ v.setWidth 16 := by
  simp only [checksumFold, h]

/-- The low byte of an exclusive or is the exclusive or of the low bytes. -/
theorem toNat_xor_and_lowByte (e acc : Half) :
    ((e ^^^ acc) &&& 0xFF#16).toNat = (e.toNat % 256) ^^^ (acc.toNat % 256) := by
  rw [BitVec.toNat_and, BitVec.toNat_xor]
  exact (Nat.and_two_pow_sub_one_eq_mod _ 8).trans (Nat.xor_mod_two_pow (n := 8))

/-- `ckVerify` under XOR8 looks at the low bytes alone (42_checksum.md R164). -/
theorem checksumVerify_xor8_iff {c : Config} (h : c.ckPolicy = .xor8) (e acc : Half) :
    checksumVerify c e acc = true ↔ e.toNat % 256 = acc.toNat % 256 := by
  simp only [checksumVerify, h, beq_iff_eq]
  rw [← BitVec.toNat_inj, toNat_xor_and_lowByte]
  exact Nat.xor_eq_zero_iff

/-- `ckVerify` under CRC16 looks at all bits (42_checksum.md R164). -/
theorem checksumVerify_crc16_iff {c : Config} (h : c.ckPolicy = .crc16) (e acc : Half) :
    checksumVerify c e acc = true ↔ e = acc := by
  simp only [checksumVerify, h, beq_iff_eq]

theorem checksumVerify_self (c : Config) (acc : Half) : checksumVerify c acc acc = true := by
  cases h : c.ckPolicy with
  | xor8 => exact (checksumVerify_xor8_iff h acc acc).2 rfl
  | crc16 => exact (checksumVerify_crc16_iff h acc acc).2 rfl

theorem toNat_setWidth_byte (v : Byte) : (v.setWidth 16).toNat = v.toNat :=
  BitVec.toNat_setWidth_of_le (by decide)

/-- The zero test of 42_checksum.md R169, for an accumulator that is one byte. -/
theorem checksumVerify_xor8_iff_fold_eq_zero {c : Config} (h : c.ckPolicy = .xor8) {acc : Half}
    (hacc : acc.toNat < 256) (b : Byte) :
    checksumVerify c (b.setWidth 16) acc = true ↔ checksumFold c acc b = 0 := by
  rw [checksumVerify_xor8_iff h, checksumFold_xor8 h, Nat.mod_eq_of_lt hacc, toNat_setWidth_byte,
    Nat.mod_eq_of_lt b.isLt, ← toNat_setWidth_byte b, BitVec.toNat_inj, eq_comm]
  exact BitVec.xor_eq_zero_iff.symm

/-- Settles O40, by the two readings of the verdict on numbers. -/
theorem xorVerdictsAgree : Obligations.XorVerdictsAgree :=
  fun _ h => ⟨checksumVerify_xor8_iff h, fun _ b hacc => checksumVerify_xor8_iff_fold_eq_zero h hacc b⟩

/-! ### The CRC on numbers (42_checksum.md R163) -/

theorem toNat_crcShift (acc : Half) : (crcShift acc).toNat = crcBitStep acc.toNat := by
  have htop : acc.getLsbD 15 = decide (32768 ≤ acc.toNat) := by
    rw [← BitVec.msb_eq_getLsbD_last, BitVec.msb_eq_decide]
  have hshift : (acc <<< 1).toNat = 2 * acc.toNat % 65536 := by
    rw [BitVec.toNat_shiftLeft, Nat.shiftLeft_eq, Nat.mul_comm]
  rw [crcShift, crcBitStep, htop]
  by_cases hle : 32768 ≤ acc.toNat
  · simp only [hle, decide_true, if_true, BitVec.toNat_xor, hshift]
    rfl
  · simp only [hle, decide_false, if_false, Bool.false_eq_true, hshift]

theorem toNat_repeat_crcShift (n : Nat) (acc : Half) :
    (Nat.repeat crcShift n acc).toNat = Nat.repeat crcBitStep n acc.toNat := by
  induction n with
  | zero => rfl
  | succ n ih => rw [Nat.repeat, toNat_crcShift, ih, Nat.repeat]

/-- Settles O41: the eight shifts agree one by one, from the byte in the accumulator's high half. -/
theorem crcIsBitSerial : Obligations.CrcIsBitSerial := by
  intro acc v
  have hhigh : (v.setWidth 16 <<< 8).toNat = v.toNat * 256 := by
    rw [BitVec.toNat_shiftLeft, toNat_setWidth_byte, Nat.shiftLeft_eq]
    have := v.isLt
    omega
  rw [crcUpdate, toNat_repeat_crcShift, BitVec.toNat_xor, hhigh]

/-! ### The generator's commands (42_checksum.md R165 to R168) -/

/-- Settles O36, by the command's row and its meaning. -/
theorem ckInitResult : Obligations.CkInitResult :=
  ⟨issues_of_row (r := ⟨0x20, true, true, fun _ _ => .ckInit⟩) rfl,
    fun s => exec_of_faultOf_none (i := .ckInit) (s := s) rfl⟩

/-- Settles O37, by the command's row and its meaning. -/
theorem ckUpdateResult : Obligations.CkUpdateResult :=
  ⟨issues_of_row (r := ⟨0x21, false, true, fun a _ => .ckUpdate a⟩) rfl,
    fun v s => exec_of_faultOf_none (i := .ckUpdate v) (s := s) rfl⟩

/-- Settles O38, by the command's row and its meaning. -/
theorem ckReadResult : Obligations.CkReadResult :=
  ⟨issues_of_row (r := ⟨0x22, true, true, fun _ _ => .ckRead⟩) rfl,
    fun s => exec_of_faultOf_none (i := .ckRead) (s := s) rfl⟩

/-- Settles O39, by what the verdict says on numbers under each policy. -/
theorem ckVerifyResult : Obligations.CkVerifyResult := by
  refine ⟨issues_of_row (r := ⟨0x23, true, false, fun _ b => .ckVerify b⟩) rfl, fun e s => ?_⟩
  rw [exec_of_faultOf_none (i := .ckVerify e) (s := s) rfl]
  cases h : s.cfg.ckPolicy with
  | xor8 => simp only [effect, answer, boolResponse, checksumVerify_xor8_iff h]
  | crc16 => simp only [effect, answer, boolResponse, checksumVerify_crc16_iff h]

/-! ### The frame's checksum (42_checksum.md R171, R172, R175, R176) -/

/-- Settles O42, each value by evaluation. -/
theorem checksumCheckValues : Obligations.ChecksumCheckValues :=
  ⟨by decide +kernel, by decide, by decide, by decide +kernel, by decide +kernel, by decide⟩

/-- Under XOR8 a frame ends in the accumulator's low byte (42_checksum.md R171). -/
theorem checksumBytes_xor8 {c : Config} (h : c.ckPolicy = .xor8) (acc : Half) :
    checksumBytes c acc = [BitVec.ofNat 8 acc.toNat] := by
  simp only [checksumBytes, h]
  rfl

/-- Under CRC16 a frame ends in the accumulator's high and then its low byte (42_checksum.md R171). -/
theorem checksumBytes_crc16 {c : Config} (h : c.ckPolicy = .crc16) (acc : Half) :
    checksumBytes c acc = [BitVec.ofNat 8 (acc.toNat / 256), BitVec.ofNat 8 acc.toNat] := by
  have hhigh : acc.extractLsb' 8 8 = BitVec.ofNat 8 (acc.toNat / 256) := by
    rw [BitVec.extractLsb', Nat.shiftRight_eq_div_pow]
  simp only [checksumBytes, h, hhigh]
  rfl

theorem encodeFrame_eq_some_iff {c : Config} {toAddr fromAddr : Byte} {payload bytes : List Byte} :
    encodeFrame c toAddr fromAddr payload = some bytes ↔ payload.length ≤ 255
      ∧ bytes = frameBody toAddr fromAddr payload
        ++ checksumBytes c (checksumOf c (frameBody toAddr fromAddr payload)) := by
  rw [encodeFrame, Option.ite_none_right_eq_some, Option.some.injEq, eq_comm (b := bytes)]

/-- A run goes on from the next state of its first command. -/
theorem execAll_cons {i : Instr} {is : List Instr} {s t : State} (h : exec i s = .next t) :
    execAll (i :: is) s = execAll is t := by
  rw [execAll, h]

/-- A list of CK_UPDATE commands folds its bytes into TXACC (42_checksum.md R166). -/
theorem execAll_ckUpdate (bytes : List Byte) (s : State) (acc : Half) :
    execAll (bytes.map .ckUpdate) { s with txAcc := acc, response := some 0 }
      = .next { s with txAcc := bytes.foldl (checksumFold s.cfg) acc, response := some 0 } := by
  induction bytes generalizing acc with
  | nil => rfl
  | cons v bytes ih =>
    rw [List.map_cons, execAll_cons (exec_of_faultOf_none rfl)]
    exact ih (checksumFold s.cfg acc v)

/-- Settles O43: the run leaves `checksumOf` of the body in TXACC, and the frame ends in its bytes. -/
theorem ckBlockComputesFrameChecksum : Obligations.CkBlockComputesFrameChecksum := by
  intro s toAddr fromAddr payload hlen
  refine ⟨{ s with txAcc := checksumOf s.cfg (frameBody toAddr fromAddr payload), response := some 0 },
    ?_, rfl, ?_⟩
  · rw [execAll_cons (exec_of_faultOf_none rfl)]
    exact execAll_ckUpdate _ s (checksumStart s.cfg)
  · rw [encodeFrame_eq_some_iff.2 ⟨hlen, rfl⟩]
    cases h : s.cfg.ckPolicy with
    | xor8 => rw [checksumBytes_xor8 h]; rfl
    | crc16 => rw [checksumBytes_crc16 h]; rfl

/-! ### The checksum of bytes under XOR8 (42_checksum.md R162, R169) -/

theorem checksumOf_concat (c : Config) (bytes : List Byte) (v : Byte) :
    checksumOf c (bytes ++ [v]) = checksumFold c (checksumOf c bytes) v := by
  rw [checksumOf, List.foldl_append]
  rfl

/-- A checksum of XOR8 is one byte (42_checksum.md R162). -/
theorem checksumOf_xor8_lt {c : Config} (h : c.ckPolicy = .xor8) (bytes : List Byte) :
    (checksumOf c bytes).toNat < 256 := by
  induction bytes using List.reverseRecOn with
  | nil => rw [checksumOf, List.foldl_nil, checksumStart_xor8 h]; decide
  | append_singleton bytes v ih =>
    rw [checksumOf_concat, checksumFold_xor8 h, BitVec.toNat_xor, toNat_setWidth_byte]
    exact Nat.xor_lt_two_pow (n := 8) ih v.isLt

/-- Under XOR8 different accumulators stay different over the same bytes. -/
theorem foldl_checksumFold_xor8_inj {c : Config} (h : c.ckPolicy = .xor8) {bytes : List Byte}
    {acc acc' : Half}
    (heq : bytes.foldl (checksumFold c) acc = bytes.foldl (checksumFold c) acc') : acc = acc' := by
  induction bytes generalizing acc acc' with
  | nil => exact heq
  | cons v bytes ih =>
    have hstep := ih heq
    rwa [checksumFold_xor8 h, checksumFold_xor8 h, BitVec.xor_left_inj] at hstep

/-- Under XOR8 another value of one byte changes the checksum. -/
theorem foldl_checksumFold_xor8_set_ne {c : Config} (h : c.ckPolicy = .xor8) {bytes : List Byte}
    {k : Nat} {b : Byte} (hk : k < bytes.length) (hb : b ≠ byteAt bytes k) (acc : Half) :
    (bytes.set k b).foldl (checksumFold c) acc ≠ bytes.foldl (checksumFold c) acc := by
  induction bytes generalizing k acc with
  | nil => exact absurd hk (Nat.not_lt_zero k)
  | cons v bytes ih =>
    cases k with
    | zero =>
      intro heq
      have hstep := foldl_checksumFold_xor8_inj h (show bytes.foldl (checksumFold c) (checksumFold c acc b)
        = bytes.foldl (checksumFold c) (checksumFold c acc v) from heq)
      rw [checksumFold_xor8 h, checksumFold_xor8 h, BitVec.xor_right_inj] at hstep
      have hbv : b = v := BitVec.eq_of_toNat_eq (by rw [← toNat_setWidth_byte, hstep, toNat_setWidth_byte])
      exact hb hbv
    | succ k => exact ih (Nat.lt_of_succ_lt_succ hk) hb (checksumFold c acc v)

/-- Under XOR8 the checksum of an encoded frame, its checksum byte included, is 0 (42_checksum.md
R169). -/
theorem checksumOf_encoded_xor8 {c : Config} (h : c.ckPolicy = .xor8) (body : List Byte) :
    checksumOf c (body ++ checksumBytes c (checksumOf c body)) = 0 := by
  rw [checksumBytes_xor8 h, checksumOf_concat,
    ← checksumVerify_xor8_iff_fold_eq_zero h (checksumOf_xor8_lt h body), checksumVerify_xor8_iff h]
  simp

end Sys2Proof.Proofs

/-! PROOFS. 42_checksum.md R173, R174 with 43_receiver.md: the bytes of a frame at the receiver, from the
first byte to the verdict, over the state each part of the frame leaves. -/

namespace Sys2Proof.Proofs

open Sys2Proof.Machine Sys2Proof.Claims

/-! ### Bytes stored one after the other -/

/-- The memory after the bytes are stored from the offset on, in order (43_receiver.md R199). -/
def storeBytes : Memory → Nat → List Byte → Memory
  | m, _, [] => m
  | m, off, v :: bytes => storeBytes (memWrite m off v) (off + 1) bytes

theorem memWf_storeBytes {m : Memory} (h : memWf m = true) (off : Nat) (bytes : List Byte) :
    memWf (storeBytes m off bytes) = true := by
  induction bytes generalizing m off with
  | nil => exact h
  | cons v bytes ih => exact ih (memWf_memWrite m off v h) (off + 1)

theorem memRead_storeBytes_below (m : Memory) {x off : Nat} (hx : x < off) (bytes : List Byte) :
    memRead (storeBytes m off bytes) x = memRead m x := by
  induction bytes generalizing m off with
  | nil => rfl
  | cons v bytes ih =>
    rw [storeBytes, ih _ (by omega), memRead_memWrite_other m v (by omega)]

theorem map_memRead_storeBytes {m : Memory} (h : memWf m = true) (off : Nat) (bytes : List Byte) :
    (List.range bytes.length).map (fun k => memRead (storeBytes m off bytes) (off + k)) = bytes := by
  induction bytes generalizing m off with
  | nil => rfl
  | cons v bytes ih =>
    rw [List.length_cons, List.range_succ_eq_map, List.map_cons, List.map_map]
    congr 1
    · rw [storeBytes, memRead_storeBytes_below _ (by omega), Nat.add_zero, memRead_memWrite_same m off v h]
    · refine Eq.trans (List.map_congr_left fun k _ => ?_) (ih (memWf_memWrite m off v h) (off + 1))
      rw [Function.comp_apply, storeBytes, Nat.succ_eq_add_one, Nat.add_right_comm, Nat.add_assoc]

/-! ### Times within the inter-byte window -/

/-- Each time is within w of the one before it, the first within w of m (43_receiver.md R193). -/
def PacedFrom (w : Nat) (m : Half) (times : List Half) : Prop :=
  List.IsChain (fun earlier later => gap later earlier ≤ w) (m :: times)

theorem pacedFrom_cons {w : Nat} {m t : Half} {times : List Half} :
    PacedFrom w m (t :: times) ↔ gap t m ≤ w ∧ PacedFrom w t times := List.isChain_cons_cons

theorem pacedFrom_of_gapsWithin {w : Nat} {t : Half} {times : List Half}
    (h : gapsWithin w (t :: times)) : PacedFrom w t times := by
  refine List.isChain_iff_getElem.2 fun k hk => ?_
  have hgap := h k hk
  rwa [List.getD_eq_getElem _ _ hk, List.getD_eq_getElem _ _ (by omega)] at hgap

/-! ### A byte at the receiver -/

theorem exec_rxByte (v : Byte) (t : Half) (s : State) :
    exec (.rxByte v t) s = .next { receiveByte v t s with response := some 0 } := rfl

/-- A byte of a frame within T_GAP (43_receiver.md R192). -/
theorem exec_rxByte_inFrame {v : Byte} {t : Half} {s a : State} (hst : inFrame s)
    (hgap : gap t s.rxMark ≤ s.cfg.tGap) (haccept : acceptByte v { s with rxMark := t } = a) :
    exec (.rxByte v t) s = .next { a with response := some 0 } := by
  rw [exec_rxByte, receiveByte_inFrame hst, frameByte_within hgap, haccept]

theorem acceptByte_header {v : Byte} {s : State} (h : s.rxState = .header) :
    acceptByte v s = acceptHeader v s := by
  rw [acceptByte, h]

theorem acceptByte_payload {v : Byte} {s : State} (h : s.rxState = .payload) :
    acceptByte v s = acceptPayload v s := by
  rw [acceptByte, h]

theorem acceptByte_checksum {v : Byte} {s : State} (h : s.rxState = .checksum) :
    acceptByte v s = acceptChecksum v s := by
  rw [acceptByte, h]

/-- A ready receiver starts a frame at the byte (43_receiver.md R192). -/
theorem receiveByte_ready {v : Byte} {t : Half} {s : State} (h : readyForFrame t s) :
    receiveByte v t s = startFrame v t s := by
  rcases h with ⟨hst, hpolicy⟩ | ⟨hst, hgap⟩
  · rw [receiveByte_idle hst, idleByte, hpolicy]
  · rw [receiveByte_awaitStart hst, awaitedByte_within hgap]

/-- The first byte of a frame at a ready receiver (43_receiver.md R195). -/
theorem exec_rxByte_first {v : Byte} {t : Half} {s : State} (h : readyForFrame t s)
    (hsize : 4 ≤ s.cfg.recvBufferSize) :
    exec (.rxByte v t) s = .next { s with
      frameValid := false, rxBuf := memWrite (memWrite s.rxBuf 0 0) 2 v
      rxAcc := checksumFold s.cfg (checksumStart s.cfg) v, rxPos := 1, rxMark := t, rxState := .header
      response := some 0 } := by
  rw [exec_rxByte, receiveByte_ready h, startFrame_eq hsize]

/-- The `from` byte within T_GAP, addresses sane (43_receiver.md R196, R197). -/
theorem exec_rxByte_from {v : Byte} {t : Half} {s : State} (hst : s.rxState = .header)
    (hpos : s.rxPos = 1) (hgap : gap t s.rxMark ≤ s.cfg.tGap) (hready : bufferReady s)
    (hsane : addrSane s.cfg (s.readBuf 2) v = true) :
    exec (.rxByte v t) s = .next { s with
      rxAcc := checksumFold s.cfg s.rxAcc v, rxBuf := memWrite s.rxBuf 3 v, rxPos := 2, rxMark := t
      response := some 0 } := by
  obtain ⟨hsize, hwf⟩ := hready
  have haccept := acceptHeader_from_sane (s := { s with rxMark := t }) hst hpos hsize hwf hsane
  rw [← acceptByte_header (s := { s with rxMark := t }) hst] at haccept
  rw [exec_rxByte_inFrame (.inl hst) hgap haccept]

/-- The `len` byte within T_GAP, of a frame that fits (43_receiver.md R196, R198). -/
theorem exec_rxByte_len {v : Byte} {t : Half} {s : State} (hst : s.rxState = .header)
    (hpos : s.rxPos ≠ 1) (hgap : gap t s.rxMark ≤ s.cfg.tGap)
    (hfit : v.toNat + 4 ≤ s.cfg.recvBufferSize) :
    exec (.rxByte v t) s = .next { s with
      rxAcc := checksumFold s.cfg s.rxAcc v, rxBuf := memWrite s.rxBuf 1 v, rxLen := v, rxPos := 0
      rxState := if v = 0 then .checksum else .payload, rxMark := t, response := some 0 } := by
  have haccept := acceptHeader_len_fits (s := { s with rxMark := t }) hst hpos hfit
  rw [← acceptByte_header (s := { s with rxMark := t }) hst] at haccept
  rw [exec_rxByte_inFrame (.inl hst) hgap haccept]

/-- A payload byte within T_GAP (43_receiver.md R199). -/
theorem exec_rxByte_payload {v : Byte} {t : Half} {s : State} (hst : s.rxState = .payload)
    (hgap : gap t s.rxMark ≤ s.cfg.tGap) (hfit : 4 + s.rxPos.toNat < s.cfg.recvBufferSize) :
    exec (.rxByte v t) s = .next { s with
      rxAcc := checksumFold s.cfg s.rxAcc v, rxBuf := memWrite s.rxBuf (4 + s.rxPos.toNat) v
      rxPos := if s.rxPos + 1 = s.rxLen then 0 else s.rxPos + 1
      rxState := if s.rxPos + 1 = s.rxLen then .checksum else .payload
      rxMark := t, response := some 0 } := by
  have haccept := acceptPayload_eq (v := v) (s := { s with rxMark := t }) hfit
  rw [← acceptByte_payload (s := { s with rxMark := t }) hst] at haccept
  rw [exec_rxByte_inFrame (.inr (.inl hst)) hgap haccept]
  by_cases hlast : s.rxPos + 1 = s.rxLen
  · rw [if_pos hlast, if_pos hlast, if_pos hlast]
  · rw [if_neg hlast, if_neg hlast, if_neg hlast, hst]

/-! ### The body of a frame at the receiver (43_receiver.md R195 to R199) -/

/-- RXBUF after the header of a frame. -/
def headerBuffer (buffer : Memory) (toAddr fromAddr len : Byte) : Memory :=
  memWrite (memWrite (memWrite (memWrite buffer 0 0) 2 toAddr) 3 fromAddr) 1 len

/-- s after the header of a frame, its last byte at the time m. -/
def headerTaken (s : State) (toAddr fromAddr len : Byte) (m : Half) : State :=
  { s with
    frameValid := false, rxBuf := headerBuffer s.rxBuf toAddr fromAddr len
    rxAcc := checksumOf s.cfg [toAddr, fromAddr, len], rxMark := m, rxPos := 0, rxLen := len
    rxState := if len = 0 then .checksum else .payload, response := some 0 }

/-- RXBUF after the body of a frame. -/
def bodyBuffer (buffer : Memory) (toAddr fromAddr : Byte) (payload : List Byte) : Memory :=
  storeBytes (headerBuffer buffer toAddr fromAddr (lenByte payload)) 4 payload

/-- s after the body of a frame, its last byte at the time m. -/
def bodyTaken (s : State) (toAddr fromAddr : Byte) (payload : List Byte) (m : Half) : State :=
  { s with
    frameValid := false, rxBuf := bodyBuffer s.rxBuf toAddr fromAddr payload
    rxAcc := checksumOf s.cfg (frameBody toAddr fromAddr payload), rxMark := m, rxPos := 0
    rxLen := lenByte payload, rxState := .checksum, response := some 0 }

theorem toNat_lenByte {payload : List Byte} (h : payload.length ≤ 255) :
    (lenByte payload).toNat = payload.length :=
  Nat.mod_eq_of_lt (by omega)

theorem memWf_headerBuffer {buffer : Memory} (h : memWf buffer = true) (toAddr fromAddr len : Byte) :
    memWf (headerBuffer buffer toAddr fromAddr len) = true :=
  memWf_memWrite _ _ _ (memWf_memWrite _ _ _ (memWf_memWrite _ _ _ (memWf_memWrite _ _ _ h)))

/-- The header of a frame that fits, its addresses sane and its bytes in time, whatever comes after it
(43_receiver.md R195 to R198). -/
theorem execAll_header {s : State} {toAddr fromAddr len : Byte} {bytes : List Byte} {t₀ t₁ t₂ : Half}
    {times : List Half} (hwf : memWf s.rxBuf = true) (hfit : len.toNat + 4 ≤ s.cfg.recvBufferSize)
    (hsane : addrSane s.cfg toAddr fromAddr = true) (hready : readyForFrame t₀ s)
    (hgap₁ : gap t₁ t₀ ≤ s.cfg.tGap) (hgap₂ : gap t₂ t₁ ≤ s.cfg.tGap) :
    execAll (List.zipWith .rxByte (toAddr :: fromAddr :: len :: bytes) (t₀ :: t₁ :: t₂ :: times)) s
      = execAll (List.zipWith .rxByte bytes times) (headerTaken s toAddr fromAddr len t₂) := by
  have hsize : 4 ≤ s.cfg.recvBufferSize := by omega
  have hwf₀ : memWf (memWrite s.rxBuf 0 0) = true := memWf_memWrite _ _ _ hwf
  have hwf₂ : memWf (memWrite (memWrite s.rxBuf 0 0) 2 toAddr) = true := memWf_memWrite _ _ _ hwf₀
  have hto : memRead (memWrite (memWrite s.rxBuf 0 0) 2 toAddr) 2 = toAddr :=
    memRead_memWrite_same _ _ _ hwf₀
  refine Eq.trans (execAll_cons (exec_rxByte_first hready hsize)) ?_
  refine Eq.trans (execAll_cons (exec_rxByte_from rfl rfl hgap₁ ⟨hsize, hwf₂⟩ ?_)) ?_
  · rw [State.readBuf, hto]; exact hsane
  · exact execAll_cons (exec_rxByte_len rfl (show (2 : Byte) ≠ 1 by decide) hgap₂ hfit)

/-- The rest of a payload that fits, whatever comes after it (43_receiver.md R199). -/
theorem execAll_payload {todo rest : List Byte} {times : List Half} {u : State}
    (hst : u.rxState = .payload) (htodo : todo ≠ [])
    (hpos : u.rxPos.toNat + todo.length = u.rxLen.toNat) (hfit : u.rxLen.toNat + 4 ≤ u.cfg.recvBufferSize)
    (hlen : times.length = todo.length + rest.length) (hpaced : PacedFrom u.cfg.tGap u.rxMark times) :
    ∃ m times', times'.length = rest.length ∧ PacedFrom u.cfg.tGap m times'
      ∧ execAll (List.zipWith .rxByte (todo ++ rest) times) u
        = execAll (List.zipWith .rxByte rest times') { u with
            rxBuf := storeBytes u.rxBuf (4 + u.rxPos.toNat) todo
            rxAcc := todo.foldl (checksumFold u.cfg) u.rxAcc, rxMark := m, rxPos := 0
            rxState := .checksum, response := some 0 } := by
  induction todo generalizing u times with
  | nil => exact absurd rfl htodo
  | cons v todo ih =>
    obtain ⟨t, times, rfl⟩ := List.exists_cons_of_length_eq_add_one (n := todo.length + rest.length)
      (by rw [hlen, List.length_cons]; omega)
    obtain ⟨hgap, hpaced⟩ := pacedFrom_cons.1 hpaced
    rw [List.length_cons] at hpos hlen
    rw [List.length_cons] at hlen
    have hin : 4 + u.rxPos.toNat < u.cfg.recvBufferSize := by omega
    have hinc : (u.rxPos + 1).toNat = u.rxPos.toNat + 1 := by
      have := u.rxLen.isLt
      rw [BitVec.toNat_add]; simp; omega
    rw [List.cons_append, List.zipWith_cons_cons, execAll_cons (exec_rxByte_payload hst hgap hin)]
    cases todo with
    | nil =>
      have hlast : u.rxPos + 1 = u.rxLen := BitVec.eq_of_toNat_eq (hinc.trans hpos)
      refine ⟨t, times, by simpa [Nat.add_comm] using hlen, hpaced, ?_⟩
      rw [if_pos hlast, if_pos hlast]
      rfl
    | cons w todo =>
      have hmore : u.rxPos + 1 ≠ u.rxLen := fun h => by
        rw [← h, hinc, List.length_cons] at hpos; omega
      rw [if_neg hmore, if_neg hmore]
      obtain ⟨m, times', hlen', hpaced', hrun⟩ := ih (u := { u with
          rxAcc := checksumFold u.cfg u.rxAcc v, rxBuf := memWrite u.rxBuf (4 + u.rxPos.toNat) v
          rxPos := u.rxPos + 1, rxState := .payload, rxMark := t, response := some 0 })
        rfl (List.cons_ne_nil _ _) (by rw [← hpos, List.length_cons, hinc]; omega) hfit (by omega) hpaced
      refine ⟨m, times', hlen', hpaced', hrun.trans ?_⟩
      simp only [hinc]
      rfl

/-- The body of a frame, whatever comes after it: it fits, its addresses are sane and its bytes are in
time (43_receiver.md R195 to R199). -/
theorem execAll_frameBody {s : State} {toAddr fromAddr : Byte} {payload rest : List Byte}
    {times : List Half} (hwf : memWf s.rxBuf = true) (hlong : payload.length ≤ 255)
    (hfit : payload.length + 4 ≤ s.cfg.recvBufferSize) (hsane : addrSane s.cfg toAddr fromAddr = true)
    (hlen : times.length = (frameBody toAddr fromAddr payload ++ rest).length)
    (hready : readyForFrame (times.getD 0 0) s) (hgaps : gapsWithin s.cfg.tGap times) :
    ∃ m times', times'.length = rest.length ∧ PacedFrom s.cfg.tGap m times'
      ∧ execAll (List.zipWith .rxByte (frameBody toAddr fromAddr payload ++ rest) times) s
        = execAll (List.zipWith .rxByte rest times') (bodyTaken s toAddr fromAddr payload m) := by
  match times, hlen with
  | t₀ :: t₁ :: t₂ :: times, hlen =>
    have hlen : times.length = payload.length + rest.length := by simpa [frameBody] using hlen
    obtain ⟨hgap₁, hpaced⟩ := pacedFrom_cons.1 (pacedFrom_of_gapsWithin hgaps)
    obtain ⟨hgap₂, hpaced⟩ := pacedFrom_cons.1 hpaced
    have hheader := execAll_header (bytes := payload ++ rest) (times := times) hwf
      (by rw [toNat_lenByte hlong]; exact hfit) hsane hready hgap₁ hgap₂
    cases payload with
    | nil => exact ⟨t₂, times, by simpa using hlen, hpaced, hheader⟩
    | cons v payload =>
      have hne : lenByte (v :: payload) ≠ 0 := fun h => by
        have hzero := toNat_lenByte hlong
        rw [h, List.length_cons] at hzero
        exact Nat.succ_ne_zero _ hzero.symm
      obtain ⟨m, times', hlen', hpaced', hrun⟩ := execAll_payload (todo := v :: payload)
        (u := headerTaken s toAddr fromAddr (lenByte (v :: payload)) t₂) (if_neg hne)
        (List.cons_ne_nil _ _) ((Nat.zero_add _).trans (toNat_lenByte hlong).symm)
        (by rw [headerTaken, toNat_lenByte hlong]; exact hfit) hlen hpaced
      exact ⟨m, times', hlen', hpaced', hheader.trans hrun⟩

/-! ### The end of a frame at the receiver (43_receiver.md R201) -/

theorem frameEvent_eq_stagedFrame (s : State) : frameEvent s = stagedFrame s := by
  have hforUs (toAddr : Byte) :
      forUs s.cfg toAddr = decide (toAddr = 0xFF#8 ∨ toAddr.toNat = s.cfg.busId) := by
    rw [forUs, Bool.decide_or]
    rfl
  rw [frameEvent, hforUs, stagedFrame]

/-- The record in RXBUF after the body of a frame is the frame's (43_receiver.md R195 to R199). -/
theorem stagedFrame_body {s u : State} {toAddr fromAddr : Byte} {payload : List Byte}
    (hwf : memWf s.rxBuf = true) (hlong : payload.length ≤ 255) (hcfg : u.cfg = s.cfg)
    (hbuf : u.rxBuf = bodyBuffer s.rxBuf toAddr fromAddr payload) :
    stagedFrame u = .rxFrame toAddr fromAddr (lenByte payload) payload
      (decide (toAddr = 0xFF#8 ∨ toAddr.toNat = s.cfg.busId)) := by
  have hwf₀ : memWf (memWrite s.rxBuf 0 0) = true := memWf_memWrite _ _ _ hwf
  have hwf₂ : memWf (memWrite (memWrite s.rxBuf 0 0) 2 toAddr) = true := memWf_memWrite _ _ _ hwf₀
  have hwf₃ := memWf_memWrite _ 3 fromAddr hwf₂
  have hbelow {x : Nat} (hx : x < 4) :
      u.readBuf x = memRead (headerBuffer s.rxBuf toAddr fromAddr (lenByte payload)) x := by
    rw [State.readBuf, hbuf, bodyBuffer, memRead_storeBytes_below _ hx]
  have hlen : u.readBuf 1 = lenByte payload := by
    rw [hbelow (by decide), headerBuffer, memRead_memWrite_same _ _ _ hwf₃]
  have hto : u.readBuf 2 = toAddr := by
    rw [hbelow (by decide), headerBuffer, memRead_memWrite_other _ _ (by decide),
      memRead_memWrite_other _ _ (by decide), memRead_memWrite_same _ _ _ hwf₀]
  have hfrom : u.readBuf 3 = fromAddr := by
    rw [hbelow (by decide), headerBuffer, memRead_memWrite_other _ _ (by decide),
      memRead_memWrite_same _ _ _ hwf₂]
  have hpayload : (List.range payload.length).map (fun k => u.readBuf (4 + k)) = payload := by
    simp only [State.readBuf, hbuf]
    exact map_memRead_storeBytes (memWf_headerBuffer hwf _ _ _) 4 payload
  rw [stagedFrame, hto, hfrom, hlen, toNat_lenByte hlong, hpayload, hcfg]

/-- The checksum byte of XOR8 within T_GAP completes the frame (43_receiver.md R201). -/
theorem exec_rxByte_xor8 {v : Byte} {t : Half} {s : State} (h : s.cfg.ckPolicy = .xor8)
    (hst : s.rxState = .checksum) (hgap : gap t s.rxMark ≤ s.cfg.tGap) :
    exec (.rxByte v t) s
      = .next { complete { s with rxMark := t, rxCk := v.setWidth 16 } with response := some 0 } := by
  have hlen : ckLen s.cfg = 1 := by rw [ckLen, h]
  refine exec_rxByte_inFrame (.inr (.inr hst)) hgap ?_
  exact (acceptByte_checksum (s := { s with rxMark := t }) hst).trans (if_pos hlen)

/-- The CRC's high byte within T_GAP is kept (43_receiver.md R201). -/
theorem exec_rxByte_crcHigh {v : Byte} {t : Half} {s : State} (h : s.cfg.ckPolicy = .crc16)
    (hst : s.rxState = .checksum) (hpos : s.rxPos = 0) (hgap : gap t s.rxMark ≤ s.cfg.tGap) :
    exec (.rxByte v t) s = .next { s with
      rxMark := t, rxCk := v.setWidth 16 <<< 8, rxPos := 1, response := some 0 } := by
  have hlen : ckLen s.cfg ≠ 1 := by rw [ckLen, h]; decide
  have haccept : acceptByte v { s with rxMark := t }
      = { s with rxMark := t, rxCk := v.setWidth 16 <<< 8, rxPos := 1 } :=
    (acceptByte_checksum (s := { s with rxMark := t }) hst).trans ((if_neg hlen).trans (if_pos hpos))
  rw [exec_rxByte_inFrame (.inr (.inr hst)) hgap haccept]

/-- The CRC's low byte within T_GAP completes the frame (43_receiver.md R201). -/
theorem exec_rxByte_crcLow {v : Byte} {t : Half} {s : State} (h : s.cfg.ckPolicy = .crc16)
    (hst : s.rxState = .checksum) (hpos : s.rxPos ≠ 0) (hgap : gap t s.rxMark ≤ s.cfg.tGap) :
    exec (.rxByte v t) s = .next { complete { s with rxMark := t, rxCk := s.rxCk ||| v.setWidth 16 } with
      response := some 0 } := by
  have hlen : ckLen s.cfg ≠ 1 := by rw [ckLen, h]; decide
  refine exec_rxByte_inFrame (.inr (.inr hst)) hgap ?_
  exact (acceptByte_checksum (s := { s with rxMark := t }) hst).trans
    ((if_neg hlen).trans (if_neg hpos))

/-- The two bytes of a CRC make it again (42_checksum.md R171, 43_receiver.md R201). -/
theorem highByte_or_lowByte (acc : Half) :
    (BitVec.ofNat 8 (acc.toNat / 256)).setWidth 16 <<< 8 ||| (BitVec.ofNat 8 acc.toNat).setWidth 16
      = acc := by
  have hhigh : ((BitVec.ofNat 8 (acc.toNat / 256)).setWidth 16 <<< 8).toNat = 2 ^ 8 * (acc.toNat / 256) := by
    have := acc.isLt
    rw [BitVec.toNat_shiftLeft, toNat_setWidth_byte, BitVec.toNat_ofNat,
      Nat.shiftLeft_eq]
    omega
  have hlow : ((BitVec.ofNat 8 acc.toNat).setWidth 16).toNat = acc.toNat % 2 ^ 8 := by
    rw [toNat_setWidth_byte, BitVec.toNat_ofNat]
  apply BitVec.eq_of_toNat_eq
  rw [BitVec.toNat_or, hhigh, hlow, ← Nat.two_pow_add_eq_or_of_lt (Nat.mod_lt _ (by decide))]
  exact Nat.div_add_mod _ _

/-- The checksum bytes of a sent checksum, in time: the receiver completes the frame with a received
checksum that has the sent one's verdict (43_receiver.md R201). -/
theorem execAll_checksumBytes {u : State} {sent : Half} {times : List Half}
    (hst : u.rxState = .checksum) (hpos : u.rxPos = 0)
    (hlen : times.length = (checksumBytes u.cfg sent).length) (hpaced : PacedFrom u.cfg.tGap u.rxMark times) :
    ∃ received pos t resp, checksumVerify u.cfg received u.rxAcc = checksumVerify u.cfg sent u.rxAcc
      ∧ execAll (List.zipWith .rxByte (checksumBytes u.cfg sent) times) u = .next
        { complete { u with rxCk := received, rxPos := pos, rxMark := t, response := resp } with
          response := some 0 } := by
  cases h : u.cfg.ckPolicy with
  | xor8 =>
    rw [checksumBytes_xor8 h] at hlen ⊢
    obtain ⟨t, rfl⟩ := List.length_eq_one_iff.1 hlen
    obtain ⟨hgap, -⟩ := pacedFrom_cons.1 hpaced
    refine ⟨(BitVec.ofNat 8 sent.toNat).setWidth 16, u.rxPos, t, u.response, ?_, ?_⟩
    · rw [Bool.eq_iff_iff, checksumVerify_xor8_iff h, checksumVerify_xor8_iff h]
      simp
    · exact execAll_cons (exec_rxByte_xor8 h hst hgap)
  | crc16 =>
    rw [checksumBytes_crc16 h] at hlen ⊢
    obtain ⟨t₁, t₂, rfl⟩ := List.length_eq_two.1 hlen
    obtain ⟨hgap₁, hpaced⟩ := pacedFrom_cons.1 hpaced
    obtain ⟨hgap₂, -⟩ := pacedFrom_cons.1 hpaced
    refine ⟨sent, 1, t₂, some 0, rfl, ?_⟩
    refine Eq.trans (execAll_cons (exec_rxByte_crcHigh h hst hpos hgap₁)) ?_
    refine Eq.trans (execAll_cons (exec_rxByte_crcLow h hst (show (1 : Byte) ≠ 0 by decide) hgap₂)) ?_
    simp only [highByte_or_lowByte]
    rfl

/-- A frame body followed by the bytes of any checksum: the verdict on that checksum decides whether the
frame is delivered or reported errChecksum (42_checksum.md R173, R174). -/
theorem execAll_frame {s : State} {toAddr fromAddr : Byte} {payload : List Byte} {sent : Half}
    {times : List Half} (hwf : memWf s.rxBuf = true) (hlong : payload.length ≤ 255)
    (hfit : payload.length + 4 ≤ s.cfg.recvBufferSize) (hsane : addrSane s.cfg toAddr fromAddr = true)
    (hlen : times.length = (frameBody toAddr fromAddr payload ++ checksumBytes s.cfg sent).length)
    (hready : readyForFrame (times.getD 0 0) s) (hgaps : gapsWithin s.cfg.tGap times) :
    ∃ u, execAll (List.zipWith .rxByte (frameBody toAddr fromAddr payload ++ checksumBytes s.cfg sent)
        times) s = .next u
      ∧ u.rxState = .idle ∧ u.fault = s.fault
      ∧ (checksumVerify s.cfg sent (checksumOf s.cfg (frameBody toAddr fromAddr payload)) = true →
          u.ev = s.ev ++ [.rxFrame toAddr fromAddr (lenByte payload) payload
            (decide (toAddr = 0xFF#8 ∨ toAddr.toNat = s.cfg.busId))]
          ∧ u.lastErr = .errNone ∧ u.frameValid = true)
      ∧ (checksumVerify s.cfg sent (checksumOf s.cfg (frameBody toAddr fromAddr payload)) = false →
          u.ev = s.ev ++ [.rxError .errChecksum] ∧ u.lastErr = .errChecksum ∧ u.frameValid = false) := by
  obtain ⟨m, times', hlen', hpaced, hbody⟩ := execAll_frameBody hwf hlong hfit hsane hlen hready hgaps
  obtain ⟨received, pos, t, resp, hsame, hend⟩ := execAll_checksumBytes
    (u := bodyTaken s toAddr fromAddr payload m) (sent := sent) rfl rfl hlen' hpaced
  have hrun := hbody.trans hend
  cases hverdict : checksumVerify s.cfg sent (checksumOf s.cfg (frameBody toAddr fromAddr payload)) with
  | true =>
    rw [complete_good (hsame.trans hverdict)] at hrun
    refine ⟨_, hrun, rfl, rfl, fun _ => ⟨?_, rfl, rfl⟩, nofun⟩
    exact congrArg (s.ev ++ [·]) ((frameEvent_eq_stagedFrame _).trans
      (stagedFrame_body (s := s) hwf hlong rfl rfl))
  | false =>
    rw [complete_bad (hsame.trans hverdict)] at hrun
    exact ⟨_, hrun, rfl, rfl, nofun, fun _ => ⟨rfl, rfl, rfl⟩⟩

/-- Settles O58: an encoded frame ends in its body's own checksum. -/
theorem checksumRoundTrip : Obligations.ChecksumRoundTrip := by
  intro s toAddr fromAddr payload bytes times _ hwf henc hfit hsane hlen hready hgaps
  obtain ⟨hlong, rfl⟩ := encodeFrame_eq_some_iff.1 henc
  obtain ⟨u, hrun, hidle, hfault, hgood, -⟩ := execAll_frame hwf hlong hfit hsane hlen hready hgaps
  obtain ⟨hev, herr, hvalid⟩ := hgood (checksumVerify_self s.cfg _)
  exact ⟨u, hrun, hev, herr, hidle, hvalid, hfault⟩

/-! ### One corrupted byte under XOR8 (42_checksum.md R174) -/

/-! ### One corrupted byte under XOR8 (42_checksum.md R174) -/

/-- A frame with one byte other than `len` replaced is a body of the same payload length and a checksum
byte. -/
theorem set_frameBody_concat {toAddr fromAddr v b : Byte} {payload : List Byte} {k : Nat} (hk : k ≠ 2) :
    ∃ toAddr' fromAddr' payload' v', payload'.length = payload.length
      ∧ (frameBody toAddr fromAddr payload ++ [v]).set k b
        = frameBody toAddr' fromAddr' payload' ++ [v'] := by
  match k with
  | 0 => exact ⟨b, fromAddr, payload, v, rfl, rfl⟩
  | 1 => exact ⟨toAddr, b, payload, v, rfl, rfl⟩
  | 2 => exact absurd rfl hk
  | k + 3 =>
    have hcons (bytes : List Byte) : (frameBody toAddr fromAddr payload ++ bytes).set (k + 3) b
        = toAddr :: fromAddr :: lenByte payload :: (payload ++ bytes).set k b := rfl
    rw [hcons]
    by_cases hin : k < payload.length
    · rw [List.set_append_left _ _ hin]
      have hlen : lenByte (payload.set k b) = lenByte payload := by rw [lenByte, List.length_set, lenByte]
      exact ⟨toAddr, fromAddr, payload.set k b, v, List.length_set, by rw [frameBody, hlen]; rfl⟩
    · rw [List.set_append_right _ _ (Nat.le_of_not_lt hin)]
      obtain ⟨v', hv'⟩ := List.length_eq_one_iff.1
        (List.length_set (as := [v]) (i := k - payload.length) (a := b))
      exact ⟨toAddr, fromAddr, payload, v', rfl, by rw [hv']; rfl⟩

/-- Settles O59: the corrupted bytes are a frame whose checksum does not agree, because under XOR8 the
bytes of a frame that agrees fold to 0, as the bytes sent do. -/
theorem corruptedByteReported : Obligations.CorruptedByteReported := by
  intro s toAddr fromAddr b payload bytes times k _ hwf hpolicy henc hfit hk hne hb hsane hlen hready hgaps
  obtain ⟨hlong, hbytes⟩ := encodeFrame_eq_some_iff.1 henc
  have hzero : checksumOf s.cfg bytes = 0 := hbytes ▸ checksumOf_encoded_xor8 hpolicy _
  have hchanged : checksumOf s.cfg (bytes.set k b) ≠ 0 :=
    hzero ▸ foldl_checksumFold_xor8_set_ne hpolicy hk hb (checksumStart s.cfg)
  rw [checksumBytes_xor8 hpolicy] at hbytes
  obtain ⟨toAddr', fromAddr', payload', v', hlen', hset⟩ := set_frameBody_concat (b := b) hne
  have hlast : [v'] = checksumBytes s.cfg (v'.setWidth 16) := by
    rw [checksumBytes_xor8 hpolicy, toNat_setWidth_byte, BitVec.ofNat_toNat, BitVec.setWidth_eq]
  have hwire : bytes.set k b
      = frameBody toAddr' fromAddr' payload' ++ checksumBytes s.cfg (v'.setWidth 16) := by
    rw [← hlast, ← hset, ← hbytes]
  have hbad : checksumVerify s.cfg (v'.setWidth 16)
      (checksumOf s.cfg (frameBody toAddr' fromAddr' payload')) = false := by
    rw [Bool.eq_false_iff, ne_eq, checksumVerify_xor8_iff_fold_eq_zero hpolicy (checksumOf_xor8_lt hpolicy _),
      ← checksumOf_concat, hlast, ← hwire]
    exact hchanged
  rw [← List.length_set (as := bytes) (i := k) (a := b)] at hlen
  rw [hwire] at hsane hlen ⊢
  obtain ⟨u, hrun, hidle, -, -, herror⟩ :=
    execAll_frame hwf (hlen' ▸ hlong) (hlen' ▸ hfit) hsane hlen hready hgaps
  obtain ⟨hev, herr, hvalid⟩ := herror hbad
  exact ⟨u, hrun, hev, herr, hidle, hvalid⟩

end Sys2Proof.Proofs

/-! PROOFS. 43_receiver.md: what each receiver command answers, a byte by the receiver state it meets
(R191 to R204, R206), the transition table (R205), and the one event a command can append (R207). -/

namespace Sys2Proof.Proofs

open Sys2Proof.Machine Sys2Proof.Claims

/-! ### RX_ARM, RX_POLL, RX_CLRERR and RX_RDBUF -/

/-- Settles O45, by the one cause of a fault the command has. -/
theorem rxArmResult : Obligations.RxArmResult := by
  refine ⟨issues_of_row (r := ⟨0x30, true, false, fun _ b => .rxArm b⟩) rfl,
    fun t s => ⟨fun hidle => ?_, fun hbusy => ?_⟩⟩
  · exact exec_of_faultOf_none (i := .rxArm t) (if_pos hidle)
  · exact exec_of_faultOf_some (i := .rxArm t) (if_neg hbusy)

/-- Settles O55, by the command's row and its meaning. -/
theorem rxClrerrResult : Obligations.RxClrerrResult :=
  ⟨issues_of_row (r := ⟨0x34, true, true, fun _ _ => .rxClrerr⟩) rfl,
    fun s => exec_of_faultOf_none (i := .rxClrerr) (s := s) rfl⟩

/-- Settles O56, by the range check of the offset. -/
theorem rxRdbufResult : Obligations.RxRdbufResult :=
  ⟨issues_of_row (r := ⟨0x35, true, false, fun _ b => .rxRdbuf b⟩) rfl, fun k s =>
    ⟨fun hin => ⟨_, exec_rxRdbuf_inRange hin, toNat_setWidth_byte (s.readBuf k.toNat)⟩,
      exec_rxRdbuf_outOfRange⟩⟩

theorem exec_rxPoll (t : Half) (s : State) :
    exec (.rxPoll t) s = .next { pollWindows t s with response := some 0 } := rfl

theorem pollWindows_idle {t : Half} {s : State} (h : s.rxState = .idle) : pollWindows t s = s := by
  rw [pollWindows, h]

theorem pollWindows_awaitStart {t : Half} {s : State} (h : s.rxState = .awaitStart) :
    pollWindows t s = pollStart t s := by
  rw [pollWindows, h]

theorem pollWindows_inFrame {t : Half} {s : State} (h : inFrame s) : pollWindows t s = pollGap t s := by
  rcases h with h | h | h <;> rw [pollWindows, h]

/-- A time is outside a window exactly when its gap is greater (43_receiver.md R193). -/
theorem withinWindow_eq_false_iff {t m : Half} {w : Nat} : withinWindow t m w = false ↔ w < gap t m := by
  rw [withinWindow_eq, decide_eq_false_iff_not]
  exact Nat.not_le

theorem pollStart_eq (t : Half) (s : State) : pollStart t s
    = if s.cfg.tStart < gap t s.rxMark then { s.report .errTimeoutStart with rxState := .idle } else s := by
  simp only [pollStart, ← withinWindow_eq_false_iff]
  cases withinWindow t s.rxMark s.cfg.tStart <;> rfl

theorem pollGap_eq (t : Half) (s : State) : pollGap t s
    = if s.cfg.tGap < gap t s.rxMark then (s.report .errTimeout).toIdle else s := by
  simp only [pollGap, ← withinWindow_eq_false_iff]
  cases withinWindow t s.rxMark s.cfg.tGap <;> rfl

/-- Settles O53, by the receiver state and whether its window has elapsed. -/
theorem rxPollResult : Obligations.RxPollResult := by
  refine ⟨issues_of_row (r := ⟨0x32, true, false, fun _ b => .rxPoll b⟩) rfl, fun t s =>
    ⟨fun hst => ?_, fun hst => ?_, fun hst => ?_⟩⟩
  · rw [exec_rxPoll, pollWindows_idle hst]
  · rw [exec_rxPoll, pollWindows_awaitStart hst, pollStart_eq]
    split <;> rfl
  · rw [exec_rxPoll, pollWindows_inFrame hst, pollGap_eq]
    split <;> rfl

/-! ### A byte after its window (43_receiver.md R192, R193) -/

/-- The time t is past the window that is open in s, and the timeout of that window is code. -/
def TimesOut (t : Half) (s : State) (code : ErrCode) : Prop :=
  (s.rxState = .awaitStart ∧ s.cfg.tStart < gap t s.rxMark ∧ code = .errTimeoutStart)
    ∨ (inFrame s ∧ s.cfg.tGap < gap t s.rxMark ∧ code = .errTimeout)

theorem receiveByte_late {v : Byte} {t : Half} {s : State} {code : ErrCode} (h : TimesOut t s code) :
    receiveByte v t s = lateByte v t (s.report code).toIdle := by
  rcases h with ⟨hst, hlate, rfl⟩ | ⟨hst, hlate, rfl⟩
  · rw [receiveByte_awaitStart hst, awaitedByte_late hlate]
  · rw [receiveByte_inFrame hst, frameByte_late hlate]

theorem lateByte_startFrame {v : Byte} {t : Half} {s : State} (h : s.cfg.idleBytePolicy = .startFrame) :
    lateByte v t s = startFrame v t s := by
  rw [lateByte, h]

theorem lateByte_unexpected {v : Byte} {t : Half} {s : State} (h : s.cfg.idleBytePolicy = .unexpected) :
    lateByte v t s = s := by
  rw [lateByte, h]

/-- A late byte under StartFrame: its timeout is reported, then it is the first of a new frame. -/
theorem exec_rxByte_late_startFrame {v : Byte} {t : Half} {s : State} {code : ErrCode}
    (h : TimesOut t s code) (hpolicy : s.cfg.idleBytePolicy = .startFrame)
    (hsize : 4 ≤ s.cfg.recvBufferSize) :
    exec (.rxByte v t) s = .next { s.report code with
      frameValid := false, rxBuf := memWrite (memWrite s.rxBuf 0 0) 2 v
      rxAcc := checksumFold s.cfg (checksumStart s.cfg) v, rxPos := 1, rxMark := t, rxState := .header
      response := some 0 } := by
  have hstart := (lateByte_startFrame (s := (s.report code).toIdle) (v := v) (t := t) hpolicy).trans
    (startFrame_eq hsize)
  rw [exec_rxByte, receiveByte_late h, hstart]
  rfl

/-- A late byte under Unexpected: its timeout is reported and it is dropped. -/
theorem exec_rxByte_late_unexpected {v : Byte} {t : Half} {s : State} {code : ErrCode}
    (h : TimesOut t s code) (hpolicy : s.cfg.idleBytePolicy = .unexpected) :
    exec (.rxByte v t) s = .next { (s.report code).toIdle with response := some 0 } := by
  rw [exec_rxByte, receiveByte_late h, lateByte_unexpected (s := (s.report code).toIdle) hpolicy]

/-- Settles O48, by the receiver state the byte meets. -/
theorem rxByteDropped : Obligations.RxByteDropped := by
  refine fun v t s hpolicy => ⟨fun hst => ?_, fun hst hlate => ?_, fun hst hlate => ?_⟩
  · rw [exec_rxByte, receiveByte_idle hst, idleByte, hpolicy]
    rfl
  · exact exec_rxByte_late_unexpected (.inl ⟨hst, hlate, rfl⟩) hpolicy
  · exact exec_rxByte_late_unexpected (.inr ⟨hst, hlate, rfl⟩) hpolicy

/-! ### A byte that starts a frame (43_receiver.md R192, R195) -/

/-- The two ways a byte starts a frame: nothing is reported, or it is late under StartFrame. -/
theorem startsFrame_cases {t : Half} {s : State} (h : startsFrame t s = true) :
    readyForFrame t s ∨ ∃ code, TimesOut t s code ∧ s.cfg.idleBytePolicy = .startFrame := by
  have hframe (hst : inFrame s) (hlate : (decide (s.cfg.tGap < gap t s.rxMark)
      && decide (s.cfg.idleBytePolicy = .startFrame)) = true) :
      ∃ code, TimesOut t s code ∧ s.cfg.idleBytePolicy = .startFrame := by
    simp only [Bool.and_eq_true, decide_eq_true_eq] at hlate
    exact ⟨.errTimeout, .inr ⟨hst, hlate.1, rfl⟩, hlate.2⟩
  rcases rxState_cases s with hst | hst | hst | hst | hst | hst <;> simp only [startsFrame, hst] at h
  · exact .inl (.inl ⟨hst, of_decide_eq_true h⟩)
  · by_cases hgap : gap t s.rxMark ≤ s.cfg.tStart
    · exact .inl (.inr ⟨hst, hgap⟩)
    · simp only [hgap, decide_false, Bool.false_or, decide_eq_true_eq] at h
      exact .inr ⟨.errTimeoutStart, .inl ⟨hst, Nat.not_le.1 hgap, rfl⟩, h⟩
  · exact .inr (hframe (.inl hst) h)
  · exact .inr (hframe (.inr (.inl hst)) h)
  · exact .inr (hframe (.inr (.inr hst)) h)
  · cases h

/-- What RXBUF holds after the two stores of `startFrame`. -/
theorem memRead_startFrame {m : Memory} (h : memWf m = true) (v : Byte) :
    memRead (memWrite (memWrite m 0 0) 2 v) 0 = 0 ∧ memRead (memWrite (memWrite m 0 0) 2 v) 2 = v
      ∧ ∀ a, a ≠ 0 → a ≠ 2 → memRead (memWrite (memWrite m 0 0) 2 v) a = memRead m a := by
  refine ⟨?_, memRead_memWrite_same _ _ _ (memWf_memWrite _ _ _ h), fun a h0 h2 => ?_⟩
  · rw [memRead_memWrite_other _ _ (by decide), memRead_memWrite_same _ _ _ h]
  · rw [memRead_memWrite_other _ _ h2, memRead_memWrite_other _ _ h0]

/-- Settles O47: at a ready receiver the byte reports nothing, late it reports its timeout. -/
theorem rxByteStartsFrame : Obligations.RxByteStartsFrame := by
  intro v t s ⟨hsize, hwf⟩ hstarts
  obtain ⟨hread0, hread2, hreads⟩ := memRead_startFrame hwf v
  rcases startsFrame_cases hstarts with hready | ⟨code, hlate, hpolicy⟩
  · refine ⟨_, exec_rxByte_first hready hsize, hread0, hread2, hreads, none, ?_, ?_⟩
    · rcases hready with ⟨hst, -⟩ | ⟨hst, hgap⟩
      · simp [hst]
      · simp [hst, Nat.not_lt.2 hgap]
    · simp
  · have hexec := exec_rxByte_late_startFrame (v := v) hlate hpolicy hsize
    refine ⟨_, hexec, hread0, hread2, hreads, some code, ?_, ?_⟩
    · rcases hlate with ⟨hst, hgap, rfl⟩ | ⟨hst, hgap, rfl⟩
      · rw [if_pos ⟨hst, hgap⟩]
      · rw [if_neg (by rcases hst with hst | hst | hst <;> simp [hst]), if_pos hst]
    · rcases hlate with ⟨-, -, rfl⟩ | ⟨-, -, rfl⟩ <;> rfl

/-! ### A header byte (43_receiver.md R196 to R198) -/

/-- The `from` byte within T_GAP, addresses not sane (43_receiver.md R196, R197). -/
theorem exec_rxByte_from_insane {v : Byte} {t : Half} {s : State} (hst : s.rxState = .header)
    (hpos : s.rxPos = 1) (hgap : gap t s.rxMark ≤ s.cfg.tGap) (hready : bufferReady s)
    (hsane : addrSane s.cfg (s.readBuf 2) v = false) :
    exec (.rxByte v t) s = .next { (s.report .errUnexpected).toIdle with
      rxAcc := checksumFold s.cfg s.rxAcc v, rxBuf := memWrite s.rxBuf 3 v, rxMark := t
      response := some 0 } := by
  obtain ⟨hsize, hwf⟩ := hready
  have haccept := acceptHeader_from_insane (s := { s with rxMark := t }) hpos hsize hwf hsane
  rw [← acceptByte_header (s := { s with rxMark := t }) hst] at haccept
  rw [exec_rxByte_inFrame (.inl hst) hgap haccept]
  rfl

/-- The `len` byte within T_GAP, of a frame that does not fit (43_receiver.md R196, R198). -/
theorem exec_rxByte_len_long {v : Byte} {t : Half} {s : State} (hst : s.rxState = .header)
    (hpos : s.rxPos ≠ 1) (hgap : gap t s.rxMark ≤ s.cfg.tGap) (hsize : 4 ≤ s.cfg.recvBufferSize)
    (hlong : s.cfg.recvBufferSize < v.toNat + 4) :
    exec (.rxByte v t) s = .next { (s.report .errLong).toIdle with
      rxAcc := checksumFold s.cfg s.rxAcc v, rxBuf := memWrite s.rxBuf 1 v, rxMark := t
      response := some 0 } := by
  have haccept := acceptHeader_len_long (s := { s with rxMark := t }) hpos hsize hlong
  rw [← acceptByte_header (s := { s with rxMark := t }) hst] at haccept
  rw [exec_rxByte_inFrame (.inl hst) hgap haccept]
  rfl

/-- Settles O49, by which header byte it is and whether its check refuses it. -/
theorem rxByteHeader : Obligations.RxByteHeader := by
  intro v t s hready hst hgap
  obtain ⟨hsize, hwf⟩ := hready
  have hstored (off : Nat) : memRead (memWrite s.rxBuf off v) off = v := memRead_memWrite_same _ _ _ hwf
  have hkept (off a : Nat) (hne : a ≠ off) : memRead (memWrite s.rxBuf off v) a = s.readBuf a :=
    memRead_memWrite_other _ _ hne
  by_cases hpos : s.rxPos = 1
  · have hlen : s.rxPos ≠ 2 := by rw [hpos]; decide
    by_cases hsane : addrSane s.cfg (s.readBuf 2) v = true
    · exact ⟨_, exec_rxByte_from hst hpos hgap ⟨hsize, hwf⟩ hsane,
        fun _ => ⟨hstored 3, hkept 3, (if_pos hsane).symm⟩, fun h => absurd h hlen⟩
    · exact ⟨_, exec_rxByte_from_insane hst hpos hgap ⟨hsize, hwf⟩ (Bool.not_eq_true _ ▸ hsane),
        fun _ => ⟨hstored 3, hkept 3, (if_neg hsane).symm⟩, fun h => absurd h hlen⟩
  · by_cases hlong : s.cfg.recvBufferSize < v.toNat + 4
    · exact ⟨_, exec_rxByte_len_long hst hpos hgap hsize hlong, fun h => absurd h hpos,
        fun _ => ⟨hstored 1, hkept 1, (if_pos hlong).symm⟩⟩
    · exact ⟨_, exec_rxByte_len hst hpos hgap (Nat.not_lt.1 hlong), fun h => absurd h hpos,
        fun _ => ⟨hstored 1, hkept 1, (if_neg hlong).symm⟩⟩

/-! ### A payload byte (43_receiver.md R199) -/

/-- Settles O50: below RXLEN the position neither wraps nor leaves the buffer. -/
theorem rxBytePayload : Obligations.RxBytePayload := by
  intro v t s hsound hst hgap
  obtain ⟨hreception, ⟨hwf, -⟩, -⟩ := hsound
  simp only [State.ReceptionInv, hst] at hreception
  obtain ⟨hpos, hfit, -⟩ := hreception
  have hinc : (s.rxPos + 1).toNat = s.rxPos.toNat + 1 := by
    have := s.rxLen.isLt
    exact BitVec.toNat_add_of_lt (show s.rxPos.toNat + 1 < 256 by omega)
  have hnext : s.rxPos + 1 = BitVec.ofNat 8 (s.rxPos.toNat + 1) := by
    rw [← hinc, BitVec.ofNat_toNat, BitVec.setWidth_eq]
  have hlast : s.rxPos + 1 = s.rxLen ↔ s.rxPos.toNat + 1 = s.rxLen.toNat := by
    rw [← BitVec.toNat_inj, hinc]
  refine ⟨_, exec_rxByte_payload hst hgap (by omega), memRead_memWrite_same _ _ _ hwf,
    fun a hne => memRead_memWrite_other _ _ hne, ?_⟩
  simp only [hlast]
  split
  · rfl
  · rw [hnext, ← hst]

/-- Whether a payload byte is the last decides the next receiver state, whatever the buffer's size
(43_receiver.md R199). -/
theorem acceptPayload_rxState (v : Byte) (s : State) :
    (acceptPayload v s).rxState = if s.rxPos + 1 = s.rxLen then .checksum else s.rxState := by
  simp only [acceptPayload, writeBuf_rxPos, writeBuf_rxLen]
  split <;> simp

theorem goesTo_of_payload {v : Byte} {t : Half} {s : State} (hst : s.rxState = .payload)
    (hgap : gap t s.rxMark ≤ s.cfg.tGap) :
    goesTo (.rxByte v t) s (if s.rxPos + 1 = s.rxLen then .checksum else .payload) [] := by
  have haccept := acceptByte_payload (v := v) (s := { s with rxMark := t }) hst
  refine ⟨_, exec_rxByte_inFrame (.inr (.inl hst)) hgap haccept, ?_, ?_, ?_⟩
  · rw [(acceptPayload_receivesTo v { s with rxMark := t }).1]
  · exact (acceptPayload_rxState v _).trans (by rw [hst])
  · exact (acceptPayload_ev v _).trans (List.append_nil _).symm

/-! ### A checksum byte (43_receiver.md R201, R202) -/

/-- A byte in the low half, moved to the high half. -/
theorem setWidth_shiftLeft_eight (v : Byte) : v.setWidth 16 <<< 8 = BitVec.ofNat 16 (v.toNat * 256) := by
  rw [← BitVec.toNat_inj, BitVec.toNat_shiftLeft, toNat_setWidth_byte, BitVec.toNat_ofNat,
    Nat.shiftLeft_eq]

/-- The last checksum byte within T_GAP completes the frame, under either policy. -/
theorem exec_rxByte_lastChecksumByte {v : Byte} {t : Half} {s : State} (hst : s.rxState = .checksum)
    (hgap : gap t s.rxMark ≤ s.cfg.tGap) (hlast : lastChecksumByte s) :
    exec (.rxByte v t) s = .next
      { complete { s with rxMark := t, rxCk := receivedChecksum v s } with response := some 0 } := by
  cases hpolicy : s.cfg.ckPolicy with
  | xor8 => rw [exec_rxByte_xor8 hpolicy hst hgap, receivedChecksum, hpolicy]
  | crc16 =>
    have hpos : s.rxPos ≠ 0 := hlast.resolve_left (by rw [hpolicy]; decide)
    rw [exec_rxByte_crcLow hpolicy hst hpos hgap, receivedChecksum, hpolicy]

/-- Settles O51, by whether the byte is the last and what the verdict on it is. -/
theorem rxByteChecksum : Obligations.RxByteChecksum := by
  refine fun v t s hst hgap => ⟨fun hmore => ?_, fun hlast hgood => ?_, fun hlast hbad => ?_⟩
  · obtain ⟨hpolicy, hpos⟩ := not_or.1 hmore
    have hcrc : s.cfg.ckPolicy = .crc16 := by
      cases h : s.cfg.ckPolicy with
      | xor8 => exact absurd h hpolicy
      | crc16 => rfl
    rw [exec_rxByte_crcHigh hcrc hst (not_not.1 hpos) hgap, setWidth_shiftLeft_eight]
  · rw [exec_rxByte_lastChecksumByte hst hgap hlast, complete_good hgood, frameEvent_eq_stagedFrame]
    rfl
  · rw [exec_rxByte_lastChecksumByte hst hgap hlast, complete_bad hbad]
    rfl

/-! ### The transition table (43_receiver.md R205) -/

/-- A command that appends no event. -/
theorem goesTo_silently {i : Instr} {s u : State} {st : RxState} (h : exec i s = .next u)
    (hfault : u.fault = s.fault) (hst : u.rxState = st) (hev : u.ev = s.ev) : goesTo i s st [] :=
  ⟨u, h, hfault, hst, hev.trans (List.append_nil _).symm⟩

/-- Settles O52, each row by what its command answers there. -/
theorem receiverTransitions : Obligations.ReceiverTransitions := by
  intro v t s hready _
  have hsize : 4 ≤ s.cfg.recvBufferSize := hready.1
  have hlenPos (h : s.rxPos = 2) : s.rxPos ≠ 1 := by rw [h]; decide
  obtain ⟨harm, harmBusy⟩ := rxArmResult.2 t s
  obtain ⟨hpollIdle, hpollStart, hpollGap⟩ := rxPollResult.2 t s
  refine ⟨fun hst => ?_, fun hst hp => ?_, fun hst hp => ?_, fun hst => ?_, fun hst hg => ?_,
    fun hst hg hp => ?_, fun hst hg hp => ?_, fun hst hg => ?_, fun hst hpos hg hsane => ?_,
    fun hst hpos hg hsane => ?_, fun hst hpos hg hlong => ?_, fun hst hpos hg hfit hv => ?_,
    fun hst hpos hg hfit hv => ?_, fun hst hg hmore => ?_, fun hst hg hlast => ?_,
    fun hst hg hmore => ?_, fun hst hg hlast hgood => ?_, fun hst hg hlast hbad => ?_,
    fun hst hg hp => ?_, fun hst hg hp => ?_, fun hst hg => ?_, harmBusy, fun hst hg => ?_,
    fun hst hg => ?_⟩
  -- IDLE
  · exact goesTo_silently (harm hst) rfl rfl rfl
  · have hfirst := exec_rxByte_first (v := v) (t := t) (.inl ⟨hst, hp⟩) hsize
    exact ⟨goesTo_silently hfirst rfl rfl rfl, _, hfirst, rfl⟩
  · obtain ⟨hdropped, -⟩ := rxByteDropped v t s hp
    exact ⟨_, hdropped hst, rfl, hst, rfl⟩
  · exact goesTo_silently (hpollIdle hst) rfl hst rfl
  -- AWAIT_START
  · exact goesTo_silently (exec_rxByte_first (.inr ⟨hst, hg⟩) hsize) rfl rfl rfl
  · exact ⟨_, exec_rxByte_late_startFrame (.inl ⟨hst, hg, rfl⟩) hp hsize, rfl, rfl, rfl⟩
  · exact ⟨_, exec_rxByte_late_unexpected (.inl ⟨hst, hg, rfl⟩) hp, rfl, rfl, rfl⟩
  · rw [if_pos hg] at hpollStart
    exact ⟨_, hpollStart hst, rfl, rfl, rfl⟩
  -- HEADER
  · have hfrom := exec_rxByte_from hst hpos hg hready hsane
    exact ⟨goesTo_silently hfrom rfl hst rfl, _, hfrom, rfl⟩
  · exact ⟨_, exec_rxByte_from_insane hst hpos hg hready hsane, rfl, rfl, rfl⟩
  · exact ⟨_, exec_rxByte_len_long hst (hlenPos hpos) hg hsize hlong, rfl, rfl, rfl⟩
  · exact goesTo_silently (exec_rxByte_len hst (hlenPos hpos) hg hfit) rfl (if_pos hv) rfl
  · exact goesTo_silently (exec_rxByte_len hst (hlenPos hpos) hg hfit) rfl (if_neg hv) rfl
  -- PAYLOAD
  · have hgoes := goesTo_of_payload (v := v) hst hg
    rwa [if_neg hmore] at hgoes
  · have hgoes := goesTo_of_payload (v := v) hst hg
    rwa [if_pos hlast] at hgoes
  -- CHECKSUM
  · obtain ⟨hfirst, -⟩ := rxByteChecksum v t s hst hg
    exact goesTo_silently (hfirst hmore) rfl hst rfl
  · obtain ⟨-, hdelivered, -⟩ := rxByteChecksum v t s hst hg
    exact ⟨_, hdelivered hlast hgood, rfl, rfl, rfl⟩
  · obtain ⟨-, -, hrefused⟩ := rxByteChecksum v t s hst hg
    exact ⟨_, hrefused hlast hbad, rfl, rfl, rfl⟩
  -- a frame past T_GAP
  · exact ⟨_, exec_rxByte_late_startFrame (.inr ⟨hst, hg, rfl⟩) hp hsize, rfl, rfl, rfl⟩
  · exact ⟨_, exec_rxByte_late_unexpected (.inr ⟨hst, hg, rfl⟩) hp, rfl, rfl, rfl⟩
  · rw [if_pos hg] at hpollGap
    exact ⟨_, hpollGap hst, rfl, rfl, rfl⟩
  -- polls within their windows
  · rw [if_neg (Nat.not_lt.2 hg)] at hpollStart
    exact hpollStart hst
  · rw [if_neg (Nat.not_lt.2 hg)] at hpollGap
    exact hpollGap hst

/-! ### At most one event (43_receiver.md R207) -/

/-- From s to t EV stays, or grows by one error after which the receiver is in IDLE or at the start of a
new frame, or grows by one frame after which it is in IDLE. -/
def EmitsAtMostOne (s t : State) : Prop :=
  t.ev = s.ev
    ∨ (∃ code, code ≠ .errNone ∧ t.ev = s.ev ++ [.rxError code]
        ∧ (t.rxState = .idle ∨ t.rxState = .header ∧ t.rxPos = 1))
    ∨ ∃ toAddr fromAddr len payload forUs,
        t.ev = s.ev ++ [.rxFrame toAddr fromAddr len payload forUs] ∧ t.rxState = .idle

theorem EmitsAtMostOne.error {s t : State} {code : ErrCode} (hcode : code ≠ .errNone)
    (hev : t.ev = s.ev ++ [.rxError code])
    (hst : t.rxState = .idle ∨ t.rxState = .header ∧ t.rxPos = 1) : EmitsAtMostOne s t :=
  .inr (.inl ⟨code, hcode, hev, hst⟩)

/-- A check of the header lets the state be, or reports one error and returns to IDLE. -/
theorem addressCheck_cases (s : State) :
    addressCheck s = s ∨ addressCheck s = (s.report .errUnexpected).toIdle := by
  unfold addressCheck
  split
  · exact .inl rfl
  · exact .inr rfl

theorem lengthCheck_cases (len : Byte) (s : State) :
    lengthCheck len s = s ∨ lengthCheck len s = (s.report .errLong).toIdle := by
  unfold lengthCheck
  split
  · exact .inr rfl
  · exact .inl rfl

theorem acceptFrom_emits (v : Byte) (s : State) : EmitsAtMostOne s (acceptFrom v s) := by
  rcases addressCheck_cases (s.writeBuf 3 v) with h | h <;> simp only [acceptFrom, h]
  · refine .inl ?_
    split <;> simp
  · exact .error (code := .errUnexpected) (by decide) (by simp) (.inl (by simp))

theorem acceptLen_emits (v : Byte) (s : State) : EmitsAtMostOne s (acceptLen v s) := by
  rcases lengthCheck_cases v (s.writeBuf 1 v) with h | h <;> simp only [acceptLen, h]
  · refine .inl ?_
    split <;> simp
  · exact .error (code := .errLong) (by decide) (by simp) (.inl (by simp))

theorem acceptHeader_emits (v : Byte) (s : State) : EmitsAtMostOne s (acceptHeader v s) := by
  simp only [acceptHeader]
  split
  · exact acceptFrom_emits v { s with rxAcc := _ }
  · exact acceptLen_emits v { s with rxAcc := _ }

theorem complete_emits (s : State) : EmitsAtMostOne s (complete s) := by
  cases hverdict : checksumVerify s.cfg s.rxCk s.rxAcc with
  | true =>
    rw [complete_good hverdict]
    exact .inr (.inr ⟨_, _, _, _, _, rfl, rfl⟩)
  | false =>
    rw [complete_bad hverdict]
    exact .error (code := .errChecksum) (by decide) rfl (.inl rfl)

theorem acceptChecksum_emits (v : Byte) (s : State) : EmitsAtMostOne s (acceptChecksum v s) := by
  unfold acceptChecksum
  split_ifs
  · exact complete_emits { s with rxCk := _ }
  · exact .inl rfl
  · exact complete_emits { s with rxCk := _ }

theorem acceptByte_emits (v : Byte) (s : State) : EmitsAtMostOne s (acceptByte v s) := by
  rcases rxState_cases s with h | h | h | h | h | h <;> simp only [acceptByte, h]
  · exact .inl rfl
  · exact .inl rfl
  · exact acceptHeader_emits v s
  · exact .inl (acceptPayload_ev v s)
  · exact acceptChecksum_emits v s
  · exact .inl rfl

/-- A late byte leaves the receiver in IDLE or at the start of a new frame. -/
theorem lateByte_report_emits {v : Byte} {t : Half} {s : State} {code : ErrCode}
    (hcode : code ≠ .errNone) : EmitsAtMostOne s (lateByte v t (s.report code).toIdle) := by
  refine .error hcode (by simp) ?_
  cases hpolicy : s.cfg.idleBytePolicy with
  | startFrame =>
    rw [lateByte_startFrame (s := (s.report code).toIdle) hpolicy]
    exact .inr ⟨rfl, rfl⟩
  | unexpected =>
    rw [lateByte_unexpected (s := (s.report code).toIdle) hpolicy]
    exact .inl rfl

theorem frameByte_emits (v : Byte) (t : Half) (s : State) : EmitsAtMostOne s (frameByte v t s) := by
  unfold frameByte
  split
  · exact acceptByte_emits v { s with rxMark := t }
  · exact lateByte_report_emits (by decide)

theorem awaitedByte_emits (v : Byte) (t : Half) (s : State) : EmitsAtMostOne s (awaitedByte v t s) := by
  unfold awaitedByte
  split
  · exact .inl (startFrame_ev v t s)
  · exact lateByte_report_emits (by decide)

theorem idleByte_emits {v : Byte} {t : Half} {s : State} (h : s.rxState = .idle) :
    EmitsAtMostOne s (idleByte v t s) := by
  unfold idleByte
  split
  · exact .inl (startFrame_ev v t s)
  · exact .error (code := .errUnexpected) (by decide) rfl (.inl h)

theorem receiveByte_emits (v : Byte) (t : Half) (s : State) : EmitsAtMostOne s (receiveByte v t s) := by
  rcases rxState_cases s with h | h | h | h | h | h
  · rw [receiveByte_idle h]; exact idleByte_emits h
  · rw [receiveByte_awaitStart h]; exact awaitedByte_emits v t s
  · rw [receiveByte_inFrame (.inl h)]; exact frameByte_emits v t s
  · rw [receiveByte_inFrame (.inr (.inl h))]; exact frameByte_emits v t s
  · rw [receiveByte_inFrame (.inr (.inr h))]; exact frameByte_emits v t s
  · rw [receiveByte_complete h]; exact .inl rfl

theorem pollWindows_emits (t : Half) (s : State) : EmitsAtMostOne s (pollWindows t s) := by
  rcases pollWindows_cases t s with h | ⟨code, pos, hcode, h⟩ <;> rw [h]
  · exact .inl rfl
  · exact .error hcode rfl (.inl rfl)

/-- Settles O57: fault entry and four of the commands append nothing, RX_BYTE and RX_POLL at most one
event. -/
theorem receiverEmitsAtMostOneEvent : Obligations.ReceiverEmitsAtMostOneEvent := by
  intro i s t hi h
  rcases exec_next_cases h with ⟨-, rfl⟩ | ⟨code, -, rfl⟩
  · obtain ⟨v, x, rfl | rfl | rfl | rfl | rfl | rfl⟩ := hi
    · exact receiveByte_emits v x s
    · exact .inl rfl
    · exact pollWindows_emits x s
    · exact .inl rfl
    · exact .inl rfl
    · exact .inl rfl
  · exact .inl rfl

end Sys2Proof.Proofs

/-! PROOFS. 60_exceptions.md: a command that does not fault keeps FAULT, what fault entry changes
(R251), and the halted block (R252). -/

namespace Sys2Proof.Proofs

open Sys2Proof.Machine Sys2Proof.Claims

/-! ### Fault entry (60_exceptions.md R251) -/

/-- FAULT is written by fault entry alone: the effect of a command that completes keeps it. -/
theorem effect_fault (s : State) (i : Instr) : (effect s i).fault = s.fault := by
  cases i with
  | tmElapsed slot d => simp only [effect]; split <;> rfl
  | dbSample j v => rw [effect, sampleByte_frame]
  | dbTick => rw [effect, (tickAll_ticksTo s).1]
  | dbWrstable j v => rw [effect, writeStableByte_frame]
  | rxByte v t => rw [effect, (receiveByte_receivesTo v t s).1]
  | rxPoll t =>
    rcases pollWindows_cases t s with h | ⟨code, pos, -, h⟩
    · rw [effect, h]
    · rw [effect, h]
      exact report_fault s code
  | tmSet _ | tmMark _ | dbRdstable _ | ckInit | ckUpdate _ | ckRead | ckVerify _ | rxArm _ | rxStatus
  | rxClrerr | rxRdbuf _ => rfl

/-- A command that leaves a running block with a fault did nothing but fault entry, with its own word. -/
theorem exec_faulted {i : Instr} {s t : State} {code : FaultCode} (hrun : s.fault = none)
    (h : exec i s = .next t) (hfault : t.fault = some code) :
    t = { s with fault := some code, faultWord := encode i, response := none } := by
  rcases exec_next_cases h with ⟨-, rfl⟩ | ⟨raised, -, rfl⟩
  · have hkept : s.fault = some code := (effect_fault s i).symm.trans hfault
    rw [hrun] at hkept
    cases hkept
  · cases hfault
    rfl

/-- Settles O19: the word decodes, and `encode` gives it back as the fault's word, or it is rejected. -/
theorem faultChangesNothingElse : Obligations.FaultChangesNothingElse := by
  intro w s t code hrun h hfault
  rcases acceptCommand_cases w s with ⟨hhalted, -⟩ | ⟨-, i, hdec, ha⟩ | ⟨-, r, -, ha⟩
  · exact absurd hrun hhalted
  · rw [← encodeDecodeAgree w i hdec]
    exact exec_faulted hrun (ha.symm.trans h) hfault
  · rw [ha] at h
    cases h
    cases hfault
    rfl

/-! ### The halted block (60_exceptions.md R252) -/

/-- Settles O7: the two cases of a word that is performed or rejected are those of a running block. -/
theorem haltedBlockPerformsNothing : Obligations.HaltedBlockPerformsNothing := by
  intro w s hhalted
  rcases acceptCommand_cases w s with ⟨-, ha⟩ | ⟨hrun, -⟩ | ⟨hrun, -⟩
  · exact ha
  · exact absurd hrun hhalted
  · exact absurd hrun hhalted

end Sys2Proof.Proofs

/-! PROOFS. 70_reset_and_hazards.md: the reset values of every state element, and what RX_STATUS and
DB_RDSTABLE answer from them (R281). -/

namespace Sys2Proof.Proofs

open Sys2Proof.Machine Sys2Proof.Claims

/-! ### The debouncer right after a reset (10_state.md R25 to R28) -/

theorem readRaw_resetWith (c : Config) (i : Nat) : (State.resetWith c).readRaw i = false :=
  bitRead_replicate_zero (byteCount c) i

theorem readChg_resetWith (c : Config) (i : Nat) : (State.resetWith c).readChg i = false :=
  bitRead_replicate_zero (byteCount c) i

theorem readCnt_resetWith {c : Config} {i : Nat} (h : i < c.inputCount) :
    (State.resetWith c).readCnt i = 0 :=
  List.getD_replicate (y := 0) (x := 0) h

theorem stable_resetWith_alias {c : Config} (ha : c.aliasMode = true) :
    (State.resetWith c).stable = initialStable c :=
  if_pos ha

theorem stable_resetWith_notAlias {c : Config} (ha : c.aliasMode = false) :
    (State.resetWith c).stable = List.replicate (byteCount c) 0 :=
  if_neg (Bool.eq_false_iff.1 ha)

theorem readStable_resetWith {c : Config} {i : Nat} (h : i < c.inputCount) :
    (State.resetWith c).readStable i = (c.aliasMode && bitRead c.stableInit i) := by
  cases ha : c.aliasMode with
  | true => rw [State.readStable, stable_resetWith_alias ha, bitRead_initialStable c i h, Bool.true_and]
  | false => rw [State.readStable, stable_resetWith_notAlias ha, bitRead_replicate_zero, Bool.false_and]

/-- The byte DB_RDSTABLE presents has a bit only where STABLE has one. -/
theorem stableByte_resetWith_notAlias {c : Config} (ha : c.aliasMode = false) (j : Nat) :
    (State.resetWith c).stableByte j = 0 :=
  BitVec.eq_of_getLsbD_eq fun k _ => by
    rw [State.stableByte, getLsbD_presentByte, stable_resetWith_notAlias ha, bitRead_replicate_zero,
      Bool.and_false]
    exact BitVec.getLsbD_zero.symm

/-! ### The rest of the state and the two responses -/

theorem fault_resetWith_cases (c : Config) :
    (State.resetWith c).fault = none ∨ (State.resetWith c).fault = some .badConfig := by
  by_cases hlegal : configLegal c = true
  · exact .inl (if_pos hlegal)
  · exact .inr (if_neg hlegal)

theorem readMark_resetWith {c : Config} {k : Nat} (h : k < c.timerSlots) :
    (State.resetWith c).readMark k = 0 :=
  List.getD_replicate (y := 0) (x := 0) h

/-- An address that no cell lists reads 0, the reset value of every byte of RXBUF (10_state.md R36). -/
theorem readBuf_resetWith (c : Config) (k : Nat) : (State.resetWith c).readBuf k = 0 := rfl

theorem statusWord_resetWith (c : Config) : statusWord (State.resetWith c) = 0 := by
  simp [statusWord, State.resetWith, rxStateCode, errNumber]

theorem exec_rxStatus_resetWith (c : Config) :
    exec .rxStatus (State.resetWith c) = .next { State.resetWith c with response := some 0 } := by
  rw [← statusWord_resetWith c]
  exact exec_of_faultOf_none (i := .rxStatus) (s := State.resetWith c) rfl

theorem exec_dbRdstable_resetWith {c : Config} {j : Half} (ha : c.aliasMode = false)
    (h : j.toNat < byteCount c) :
    exec (.dbRdstable j) (State.resetWith c) = .next { State.resetWith c with response := some 0 } := by
  rw [exec_dbRdstable_inRange (s := State.resetWith c) h, stableByte_resetWith_notAlias ha]
  rfl

/-- Settles O9, element by element: what the statement asks of a plain register is what reset writes. -/
theorem resetEstablishesResetValues : Obligations.ResetEstablishesResetValues := fun c =>
  have hdebouncer := fun i (hi : i < c.inputCount) =>
    ⟨readRaw_resetWith c i, readChg_resetWith c i, readCnt_resetWith hi, readStable_resetWith hi⟩
  ⟨rfl, rfl, fun _ => readMark_resetWith, hdebouncer, rfl, rfl, rfl, rfl, rfl,
    fun k _ => readBuf_resetWith c k, rfl, rfl, rfl, rfl, rfl, rfl, fault_resetWith_cases c, rfl,
    exec_rxStatus_resetWith c, fun _ => exec_dbRdstable_resetWith⟩

end Sys2Proof.Proofs

/-! PROOFS. 00_scope.md R3, 10_state.md R20: what one step does with the oldest input, and how a property
that every command keeps is kept by every step. -/

namespace Sys2Proof.Proofs

open Sys2Proof.Machine Sys2Proof.Claims

/-! ### One step, one input (10_state.md R20) -/

theorem step_command {w : Word} {s : State} {rest : List HostInput} (h : s.inputs = .command w :: rest) :
    step s = acceptCommand w { s with inputs := rest } := by
  rw [step, serve, h]

theorem step_reset {c : Config} {s : State} {rest : List HostInput} (h : s.inputs = .reset c :: rest) :
    step s = .next { State.resetWith c with inputs := rest } := by
  rw [step, serve, h]
  rfl

theorem step_noInput {s : State} (h : s.inputs = []) : step s = .next s := by
  rw [step, serve, h]

theorem acceptCommand_of_decode_ok {w : Word} {i : Instr} {s : State} (hrun : s.fault = none)
    (hdec : decode w = .ok i) : acceptCommand w s = exec i s := by
  simp [acceptCommand, performCommand, hrun, hdec]

/-- Settles O6, by the step on a command word. -/
theorem stepRunsDecodedCommand : Obligations.StepRunsDecodedCommand :=
  fun _ _ _ h => ⟨step_command h, fun _ hrun hdec =>
    (step_command h).trans (acceptCommand_of_decode_ok hrun hdec)⟩

/-- A command word that reaches the block leaves the inputs behind it alone. -/
theorem acceptCommand_inputs (w : Word) (s : State) :
    ∃ t, acceptCommand w s = .next t ∧ t.inputs = s.inputs := by
  rcases acceptCommand_cases w s with ⟨-, ha⟩ | ⟨-, i, -, ha⟩ | ⟨-, r, -, ha⟩
  · exact ⟨_, ha, rfl⟩
  · obtain ⟨t, he⟩ := exec_answers i s
    obtain ⟨-, hinputs, -⟩ := registersWrittenOnlyByTheirCommands i s t he
    exact ⟨t, ha.trans he, hinputs⟩
  · exact ⟨_, ha, rfl⟩

/-- Settles O8, by the oldest input. -/
theorem stepConsumesOneInput : Obligations.StepConsumesOneInput := by
  refine fun s => ⟨?_, step_noInput, fun _ _ => step_reset⟩
  match hinputs : s.inputs with
  | [] => exact ⟨s, step_noInput hinputs, hinputs⟩
  | .command w :: rest =>
    obtain ⟨t, ha, ht⟩ := acceptCommand_inputs w { s with inputs := rest }
    exact ⟨t, (step_command hinputs).trans ha, ht⟩
  | .reset c :: rest => exact ⟨_, step_reset hinputs, rfl⟩

/-! ### What every step keeps -/

/-- A property that the host's inputs, FAULT, FAULT_WORD and the response do not matter to, that every
command keeps and that holds after every reset, is kept by every step. -/
theorem step_keeps {P : State → Prop}
    (hports : ∀ s inputs fault word response, P s →
      P { s with inputs := inputs, fault := fault, faultWord := word, response := response })
    (hexec : ∀ i s t, exec i s = .next t → P s → P t) (hreset : ∀ c, P (State.resetWith c)) {s t : State}
    (hs : P s) (h : step s = .next t) : P t := by
  rcases step_next_cases h with ⟨-, rfl⟩ | ⟨w, rest, -, -, rfl⟩ | ⟨w, rest, i, -, -, -, he⟩
    | ⟨w, rest, r, -, -, -, rfl⟩ | ⟨c, rest, -, rfl⟩
  · exact hs
  · exact hports s rest _ _ _ hs
  · exact hexec i _ t he (hports s rest _ _ _ hs)
  · exact hports s rest _ _ _ hs
  · exact hports _ rest _ _ _ (hreset c)

end Sys2Proof.Proofs

/-! PROOFS. 43_receiver.md R192 to R201: everything one received byte can do, in every state, and what
follows from it: the receiver's invariants, RX_BYTE's frame, and the checksum registers under XOR8
(42_checksum.md R162). -/

namespace Sys2Proof.Proofs

open Sys2Proof.Machine Sys2Proof.Claims

/-! ### Everything one received byte can do -/

/-- s with the byte v of a running reception taken at time t: the window starts again, the byte is in
the running checksum and in RXBUF at the offset (43_receiver.md R192, R196, R199). -/
abbrev storeByte (off : Nat) (v : Byte) (t : Half) (s : State) : State :=
  State.writeBuf { s with rxMark := t, rxAcc := checksumFold s.cfg s.rxAcc v } off v

/-- What the byte v at time t can make of s (43_receiver.md R192 to R201), in every state and for every
buffer size; a case carries the guards that a property kept by every byte turns on. -/
inductive ByteTaken (v : Byte) (t : Half) (s : State) : State → Prop
  /-- COMPLETE, which no command leaves behind. -/
  | ignored (hst : s.rxState = .complete) : ByteTaken v t s s
  | unexpected (hst : s.rxState = .idle) : ByteTaken v t s (s.report .errUnexpected)
  | first (hready : readyForFrame t s) : ByteTaken v t s (startFrame v t s)
  | late {code : ErrCode} (hlate : TimesOut t s code) : ByteTaken v t s (s.report code).toIdle
  | lateFirst {code : ErrCode} (hlate : TimesOut t s code) (hpolicy : s.cfg.idleBytePolicy = .startFrame) :
      ByteTaken v t s (startFrame v t (s.report code).toIdle)
  | fromSane (hst : s.rxState = .header) (hgap : gap t s.rxMark ≤ s.cfg.tGap) (hpos : s.rxPos = 1) :
      ByteTaken v t s { storeByte 3 v t s with rxPos := 2 }
  | fromInsane (hst : s.rxState = .header) (hgap : gap t s.rxMark ≤ s.cfg.tGap) (hpos : s.rxPos = 1) :
      ByteTaken v t s ((storeByte 3 v t s).report .errUnexpected).toIdle
  | lenFits (hst : s.rxState = .header) (hgap : gap t s.rxMark ≤ s.cfg.tGap) (hpos : s.rxPos ≠ 1)
      (hfit : v.toNat + 4 ≤ s.cfg.recvBufferSize) :
      ByteTaken v t s { storeByte 1 v t s with
        rxLen := v, rxPos := 0, rxState := if v = 0 then .checksum else .payload }
  | lenLong (hst : s.rxState = .header) (hgap : gap t s.rxMark ≤ s.cfg.tGap) (hpos : s.rxPos ≠ 1) :
      ByteTaken v t s ((storeByte 1 v t s).report .errLong).toIdle
  | payloadLast (hst : s.rxState = .payload) (hgap : gap t s.rxMark ≤ s.cfg.tGap)
      (hlast : s.rxPos + 1 = s.rxLen) :
      ByteTaken v t s { storeByte (4 + s.rxPos.toNat) v t s with rxPos := 0, rxState := .checksum }
  | payloadMore (hst : s.rxState = .payload) (hgap : gap t s.rxMark ≤ s.cfg.tGap)
      (hmore : s.rxPos + 1 ≠ s.rxLen) :
      ByteTaken v t s { storeByte (4 + s.rxPos.toNat) v t s with rxPos := s.rxPos + 1 }
  | crcHigh (hst : s.rxState = .checksum) (hcrc : s.cfg.ckPolicy = .crc16) :
      ByteTaken v t s { s with rxMark := t, rxCk := v.setWidth 16 <<< 8, rxPos := 1 }
  | completed (hst : s.rxState = .checksum) :
      ByteTaken v t s (complete { s with rxMark := t, rxCk := receivedChecksum v s })

theorem lateByte_taken {v : Byte} {t : Half} {s : State} {code : ErrCode} (h : TimesOut t s code) :
    ByteTaken v t s (lateByte v t (s.report code).toIdle) := by
  cases hpolicy : s.cfg.idleBytePolicy with
  | startFrame =>
    rw [lateByte_startFrame (s := (s.report code).toIdle) hpolicy]
    exact .lateFirst h hpolicy
  | unexpected =>
    rw [lateByte_unexpected (s := (s.report code).toIdle) hpolicy]
    exact .late h

theorem acceptHeader_taken {v : Byte} {t : Half} {s : State} (hst : s.rxState = .header)
    (hgap : gap t s.rxMark ≤ s.cfg.tGap) : ByteTaken v t s (acceptHeader v { s with rxMark := t }) := by
  simp only [acceptHeader]
  split
  next hpos =>
    have hstored : (storeByte 3 v t s).rxState = .header := (writeBuf_rxState _ _ _).trans hst
    rw [acceptFrom]
    rcases addressCheck_cases (storeByte 3 v t s) with hcheck | hcheck <;> simp only [hcheck]
    · rw [if_pos hstored]
      exact .fromSane hst hgap hpos
    · exact .fromInsane hst hgap hpos
  next hpos =>
    have hstored : (storeByte 1 v t s).rxState = .header := (writeBuf_rxState _ _ _).trans hst
    have hsize : (storeByte 1 v t s).cfg.recvBufferSize = s.cfg.recvBufferSize := by
      rw [writeBuf_cfg]
    simp only [acceptLen, lengthCheck, hsize]
    by_cases hlong : v.toNat + 4 > s.cfg.recvBufferSize
    · simp only [if_pos hlong]
      exact .lenLong hst hgap hpos
    · simp only [if_neg hlong]
      rw [if_pos hstored]
      exact .lenFits hst hgap hpos (Nat.not_lt.1 hlong)

theorem acceptPayload_taken {v : Byte} {t : Half} {s : State} (hst : s.rxState = .payload)
    (hgap : gap t s.rxMark ≤ s.cfg.tGap) : ByteTaken v t s (acceptPayload v { s with rxMark := t }) := by
  have hpos : (storeByte (4 + s.rxPos.toNat) v t s).rxPos = s.rxPos := writeBuf_rxPos _ _ _
  have hlen : (storeByte (4 + s.rxPos.toNat) v t s).rxLen = s.rxLen := writeBuf_rxLen _ _ _
  simp only [acceptPayload]
  split
  next hlast =>
    rw [hpos, hlen] at hlast
    exact .payloadLast hst hgap hlast
  next hmore =>
    rw [hpos, hlen] at hmore
    rw [hpos]
    exact .payloadMore hst hgap hmore

theorem acceptChecksum_taken {v : Byte} {t : Half} {s : State} (hst : s.rxState = .checksum) :
    ByteTaken v t s (acceptChecksum v { s with rxMark := t }) := by
  have hlast {ck : Half} (hck : receivedChecksum v s = ck) :
      ByteTaken v t s (complete { s with rxMark := t, rxCk := ck }) := hck ▸ .completed hst
  unfold acceptChecksum
  cases hpolicy : s.cfg.ckPolicy with
  | xor8 =>
    rw [if_pos (show ckLen s.cfg = 1 by rw [ckLen, hpolicy])]
    exact hlast (by rw [receivedChecksum, hpolicy])
  | crc16 =>
    rw [if_neg (show ckLen s.cfg ≠ 1 by rw [ckLen, hpolicy]; decide)]
    split
    · exact .crcHigh hst hpolicy
    · exact hlast (by rw [receivedChecksum, hpolicy])

theorem receiveByte_inFrame_taken {v : Byte} {t : Half} {s : State} (hst : inFrame s) :
    ByteTaken v t s (receiveByte v t s) := by
  by_cases hgap : gap t s.rxMark ≤ s.cfg.tGap
  · rw [receiveByte_inFrame hst, frameByte_within hgap]
    rcases hst with hst | hst | hst
    · rw [acceptByte_header (s := { s with rxMark := t }) hst]
      exact acceptHeader_taken hst hgap
    · rw [acceptByte_payload (s := { s with rxMark := t }) hst]
      exact acceptPayload_taken hst hgap
    · rw [acceptByte_checksum (s := { s with rxMark := t }) hst]
      exact acceptChecksum_taken hst
  · have hlate : TimesOut t s .errTimeout := .inr ⟨hst, Nat.not_le.1 hgap, rfl⟩
    rw [receiveByte_late hlate]
    exact lateByte_taken hlate

/-- Everything a received byte can do (43_receiver.md R192). -/
theorem receiveByte_taken (v : Byte) (t : Half) (s : State) : ByteTaken v t s (receiveByte v t s) := by
  rcases rxState_cases s with hst | hst | hst | hst | hst | hst
  · rw [receiveByte_idle hst, idleByte]
    cases hpolicy : s.cfg.idleBytePolicy with
    | startFrame => exact .first (.inl ⟨hst, hpolicy⟩)
    | unexpected => exact .unexpected hst
  · by_cases hgap : gap t s.rxMark ≤ s.cfg.tStart
    · rw [receiveByte_awaitStart hst, awaitedByte_within hgap]
      exact .first (.inr ⟨hst, hgap⟩)
    · have hlate : TimesOut t s .errTimeoutStart := .inl ⟨hst, Nat.not_le.1 hgap, rfl⟩
      rw [receiveByte_late hlate]
      exact lateByte_taken hlate
  · exact receiveByte_inFrame_taken (.inl hst)
  · exact receiveByte_inFrame_taken (.inr (.inl hst))
  · exact receiveByte_inFrame_taken (.inr (.inr hst))
  · rw [receiveByte_complete hst]
    exact .ignored hst

/-! ### The receiver's invariants, part by part -/

/-- A read after a write to RXBUF, whatever the offset (20_memory.md R65). -/
theorem readBuf_writeBuf {s : State} (h : memWf s.rxBuf = true) (off a : Nat) (v : Byte) :
    (s.writeBuf off v).readBuf a = if a = off ∧ off < s.cfg.recvBufferSize then v else s.readBuf a := by
  by_cases hin : off < s.cfg.recvBufferSize
  · by_cases ha : a = off
    · rw [if_pos ⟨ha, hin⟩, ha, readBuf_writeBuf_same s off v h hin]
    · rw [if_neg fun hc => ha hc.1, readBuf_writeBuf_other s v ha]
  · rw [if_neg fun hc => hin hc.2, State.writeBuf, if_neg hin]

/-- A write outside a delivered frame keeps the buffer's invariant, if it keeps the retryCount byte 0. -/
theorem writeBuf_bufferInv {s : State} (h : s.BufferInv) (hinvalid : s.frameValid = false) {off : Nat}
    {v : Byte} (hzero : off = 0 → v = 0) : (s.writeBuf off v).BufferInv := by
  obtain ⟨hwf, hout, hretry, -⟩ := h
  refine ⟨writeBuf_wf s off v hwf, fun a ha => ?_, ?_, fun hvalid => ?_⟩
  · rw [writeBuf_cfg] at ha
    rw [readBuf_writeBuf hwf, if_neg (by omega), hout a ha]
  · rw [readBuf_writeBuf hwf]
    split
    next hc => exact hzero hc.1.symm
    next => exact hretry
  · rw [writeBuf_frameValid, hinvalid] at hvalid
    cases hvalid

/-- No error needs no flag (10_state.md R38). -/
theorem noError_errorFlagsInv {s : State} (h : s.lastErr = .errNone) : s.ErrorFlagsInv := by
  rw [State.ErrorFlagsInv, h]
  exact BitVec.and_zero

theorem report_errorFlagsInv (s : State) (code : ErrCode) : (s.report code).ErrorFlagsInv := by
  show (s.errFlags ||| errFlag code) &&& errFlag code = errFlag code
  ext k
  simp +contextual

theorem writeBuf_errorFlagsInv {s : State} (h : s.ErrorFlagsInv) (off : Nat) (v : Byte) :
    (s.writeBuf off v).ErrorFlagsInv := by
  simpa only [State.ErrorFlagsInv, writeBuf_errFlags, writeBuf_lastErr] using h

theorem receptionInv_idle {s : State} (hst : s.rxState = .idle) : s.ReceptionInv ↔ s.rxPos = 0 := by
  rw [State.ReceptionInv, hst]

theorem receptionInv_awaitStart {s : State} (hst : s.rxState = .awaitStart) :
    s.ReceptionInv ↔ s.rxPos = 0 := by
  rw [State.ReceptionInv, hst]

theorem receptionInv_header {s : State} (hst : s.rxState = .header) :
    s.ReceptionInv ↔ (s.rxPos = 1 ∨ s.rxPos = 2) ∧ s.frameValid = false := by
  rw [State.ReceptionInv, hst]

theorem receptionInv_payload {s : State} (hst : s.rxState = .payload) :
    s.ReceptionInv ↔ s.rxPos.toNat < s.rxLen.toNat ∧ s.rxLen.toNat + 4 ≤ s.cfg.recvBufferSize
      ∧ s.readBuf 1 = s.rxLen ∧ s.frameValid = false := by
  rw [State.ReceptionInv, hst]

theorem receptionInv_checksum {s : State} (hst : s.rxState = .checksum) :
    s.ReceptionInv ↔ (s.rxPos = 0 ∨ s.rxPos = 1 ∧ ckLen s.cfg = 2)
      ∧ s.rxLen.toNat + 4 ≤ s.cfg.recvBufferSize ∧ s.readBuf 1 = s.rxLen ∧ s.frameValid = false := by
  rw [State.ReceptionInv, hst]

/-- While a frame is being received FRAME_VALID is 0 (10_state.md R38). -/
theorem frameValid_of_inFrame {s : State} (h : s.ReceptionInv) (hst : inFrame s) :
    s.frameValid = false := by
  rcases hst with hst | hst | hst
  · exact ((receptionInv_header hst).1 h).2
  · obtain ⟨-, -, -, hinvalid⟩ := (receptionInv_payload hst).1 h
    exact hinvalid
  · obtain ⟨-, -, -, hinvalid⟩ := (receptionInv_checksum hst).1 h
    exact hinvalid

/-- A stored byte of a running reception keeps what does not depend on the receiver state. -/
theorem storeByte_keeps {s : State} (hs : receiverSound s) (hst : inFrame s) {off : Nat} (v : Byte)
    (t : Half) (hoff : off ≠ 0) :
    (storeByte off v t s).BufferInv ∧ (storeByte off v t s).ErrorFlagsInv
      ∧ (storeByte off v t s).frameValid = false := by
  obtain ⟨hreception, hbuf, herr⟩ := hs
  have hinvalid := frameValid_of_inFrame hreception hst
  refine ⟨?_, ?_, ?_⟩
  · exact writeBuf_bufferInv (s := { s with rxMark := t, rxAcc := _ }) hbuf hinvalid
      fun h => absurd h hoff
  · exact writeBuf_errorFlagsInv (s := { s with rxMark := t, rxAcc := _ }) herr off v
  · rw [writeBuf_frameValid, hinvalid]

/-- The end of a reception with an error (43_receiver.md R192, R197, R198). -/
theorem reportToIdle_receiverSound {s : State} (h : s.BufferInv) (code : ErrCode) :
    receiverSound (s.report code).toIdle :=
  ⟨rfl, h, report_errorFlagsInv s code⟩

theorem startFrame_receiverSound {s : State} (hbuf : s.BufferInv) (herr : s.ErrorFlagsInv) (v : Byte)
    (t : Half) : receiverSound (startFrame v t s) := by
  obtain ⟨hwf, hout, hretry, -⟩ := hbuf
  have hclear : State.BufferInv { s with frameValid := false } := ⟨hwf, hout, hretry, nofun⟩
  have hretryWritten := writeBuf_bufferInv hclear rfl (off := 0) (v := 0) fun _ => rfl
  have hinvalid : (State.writeBuf { s with frameValid := false } 0 0).frameValid = false :=
    writeBuf_frameValid _ _ _
  refine ⟨⟨.inl rfl, ?_⟩, ?_, ?_⟩
  · exact (writeBuf_frameValid _ _ _).trans hinvalid
  · exact writeBuf_bufferInv hretryWritten hinvalid (off := 2) (v := v) nofun
  · exact writeBuf_errorFlagsInv (writeBuf_errorFlagsInv (s := { s with frameValid := false }) herr 0 0) 2 v

/-- The end of a frame whose record fits in RXBUF (43_receiver.md R201). -/
theorem complete_receiverSound {s : State} (hbuf : s.BufferInv)
    (hfit : (s.readBuf 1).toNat + 4 ≤ s.cfg.recvBufferSize) : receiverSound (complete s) := by
  cases hverdict : checksumVerify s.cfg s.rxCk s.rxAcc with
  | true =>
    obtain ⟨hwf, hout, hretry, -⟩ := hbuf
    rw [complete_good hverdict]
    exact ⟨rfl, ⟨hwf, hout, hretry, fun _ => hfit⟩, noError_errorFlagsInv rfl⟩
  | false =>
    rw [complete_bad hverdict]
    exact reportToIdle_receiverSound hbuf .errChecksum

/-- A payload byte keeps RXLEN, which the record in RXBUF goes on to hold (43_receiver.md R199). -/
theorem storeByte_payload {s : State} (hsound : receiverSound s) (hst : s.rxState = .payload) (v : Byte)
    (t : Half) :
    let u := storeByte (4 + s.rxPos.toNat) v t s
    u.rxLen = s.rxLen ∧ u.rxLen.toNat + 4 ≤ u.cfg.recvBufferSize ∧ u.readBuf 1 = u.rxLen := by
  obtain ⟨hreception, -, -⟩ := hsound
  obtain ⟨-, hfit, hlen, -⟩ := (receptionInv_payload hst).1 hreception
  have hkept : (storeByte (4 + s.rxPos.toNat) v t s).readBuf 1 = s.readBuf 1 :=
    readBuf_writeBuf_other _ v (by omega)
  exact ⟨writeBuf_rxLen _ _ _, by rwa [writeBuf_rxLen, writeBuf_cfg], by rw [hkept, hlen, writeBuf_rxLen]⟩

/-- Every received byte keeps the receiver's invariants. -/
theorem ByteTaken.receiverSound {v : Byte} {t : Half} {s u : State} (h : ByteTaken v t s u)
    (hs : receiverSound s) : receiverSound u := by
  have ⟨hreception, hbuf, herr⟩ := hs
  cases h with
  | ignored hst => exact hs
  | unexpected hst =>
    have hpos := (receptionInv_idle hst).1 hreception
    exact ⟨(receptionInv_idle hst).2 hpos, hbuf, report_errorFlagsInv s _⟩
  | first hready => exact startFrame_receiverSound hbuf herr v t
  | late hlate => exact reportToIdle_receiverSound hbuf _
  | lateFirst hlate hpolicy =>
    obtain ⟨-, hbuf', herr'⟩ := reportToIdle_receiverSound hbuf _
    exact startFrame_receiverSound hbuf' herr' v t
  | fromSane hst hgap hpos =>
    obtain ⟨hbuf', herr', hinvalid⟩ := storeByte_keeps hs (.inl hst) v t (off := 3) (by decide)
    have hst' : (storeByte 3 v t s).rxState = .header := by rw [writeBuf_rxState, hst]
    refine ⟨(receptionInv_header ?_).2 ⟨.inr rfl, hinvalid⟩, hbuf', herr'⟩
    exact hst'
  | fromInsane hst hgap hpos =>
    obtain ⟨hbuf', -, -⟩ := storeByte_keeps hs (.inl hst) v t (off := 3) (by decide)
    exact reportToIdle_receiverSound hbuf' _
  | lenFits hst hgap hpos hfit =>
    obtain ⟨hbuf', herr', hinvalid⟩ := storeByte_keeps hs (.inl hst) v t (off := 1) (by decide)
    have hlen : (storeByte 1 v t s).readBuf 1 = v :=
      readBuf_writeBuf_same { s with rxMark := t, rxAcc := _ } 1 v hbuf.1
        (show 1 < s.cfg.recvBufferSize by omega)
    have hsize : v.toNat + 4 ≤ (storeByte 1 v t s).cfg.recvBufferSize := by rwa [writeBuf_cfg]
    refine ⟨?_, hbuf', herr'⟩
    by_cases hv : v = 0
    · exact (receptionInv_checksum (if_pos hv)).2 ⟨.inl rfl, hsize, hlen, hinvalid⟩
    · have hsome : v.toNat ≠ 0 := fun h0 => hv (BitVec.eq_of_toNat_eq h0)
      exact (receptionInv_payload (if_neg hv)).2 ⟨Nat.pos_of_ne_zero hsome, hsize, hlen, hinvalid⟩
  | lenLong hst hgap hpos =>
    obtain ⟨hbuf', -, -⟩ := storeByte_keeps hs (.inl hst) v t (off := 1) (by decide)
    exact reportToIdle_receiverSound hbuf' _
  | payloadLast hst hgap hlast =>
    obtain ⟨hbuf', herr', hinvalid⟩ := storeByte_keeps (off := 4 + s.rxPos.toNat) hs (.inr (.inl hst)) v t (by omega)
    obtain ⟨-, hfit, hlen⟩ := storeByte_payload hs hst v t
    exact ⟨(receptionInv_checksum rfl).2 ⟨.inl rfl, hfit, hlen, hinvalid⟩, hbuf', herr'⟩
  | payloadMore hst hgap hmore =>
    obtain ⟨hbuf', herr', hinvalid⟩ := storeByte_keeps (off := 4 + s.rxPos.toNat) hs (.inr (.inl hst)) v t (by omega)
    obtain ⟨hsame, hfit, hlen⟩ := storeByte_payload hs hst v t
    obtain ⟨hpos, -⟩ := (receptionInv_payload hst).1 hreception
    have hnext : (s.rxPos + 1).toNat < s.rxLen.toNat := by bv_omega
    have hst' : (storeByte (4 + s.rxPos.toNat) v t s).rxState = .payload := by rw [writeBuf_rxState, hst]
    refine ⟨(receptionInv_payload ?_).2 ⟨?_, hfit, hlen, hinvalid⟩, hbuf', herr'⟩
    · exact hst'
    · exact hsame.symm ▸ hnext
  | crcHigh hst hcrc =>
    obtain ⟨-, hrecord⟩ := (receptionInv_checksum hst).1 hreception
    refine ⟨(receptionInv_checksum ?_).2 ⟨.inr ⟨rfl, by rw [ckLen, hcrc]⟩, hrecord⟩, hbuf, herr⟩
    exact hst
  | completed hst =>
    obtain ⟨-, hfit, hlen, -⟩ := (receptionInv_checksum hst).1 hreception
    exact complete_receiverSound (s := { s with rxMark := t, rxCk := _ }) hbuf (hlen.symm ▸ hfit)

/-! ### The receiver's invariants, step by step -/

/-- Every poll keeps the receiver's invariants: AWAIT_START holds RXPOS at 0 already, which a start
timeout leaves alone (43_receiver.md R194). -/
theorem pollWindows_receiverSound {s : State} (hs : receiverSound s) (t : Half) :
    receiverSound (pollWindows t s) := by
  have ⟨hreception, hbuf, _⟩ := hs
  have hgap : receiverSound (pollGap t s) := by
    rw [pollGap_eq]
    split
    · exact reportToIdle_receiverSound hbuf _
    · exact hs
  rcases rxState_cases s with hst | hst | hst | hst | hst | hst
  · rwa [pollWindows_idle hst]
  · rw [pollWindows_awaitStart hst, pollStart_eq]
    split
    · have hpos := (receptionInv_awaitStart hst).1 hreception
      exact ⟨(receptionInv_idle rfl).2 hpos, hbuf, report_errorFlagsInv s _⟩
    · exact hs
  · rwa [pollWindows_inFrame (.inl hst)]
  · rwa [pollWindows_inFrame (.inr (.inl hst))]
  · rwa [pollWindows_inFrame (.inr (.inr hst))]
  · rw [State.ReceptionInv, hst] at hreception
    exact hreception.elim

/-- From s to t the receiver's invariants rest on the same. -/
def SameReceiver (s t : State) : Prop :=
  t.cfg = s.cfg ∧ t.rxState = s.rxState ∧ t.rxPos = s.rxPos ∧ t.rxLen = s.rxLen ∧ t.rxBuf = s.rxBuf
    ∧ t.lastErr = s.lastErr ∧ t.errFlags = s.errFlags ∧ t.frameValid = s.frameValid

theorem SameReceiver.sound {s t : State} (h : SameReceiver s t) (hs : receiverSound s) :
    receiverSound t := by
  obtain ⟨hcfg, hst, hpos, hlen, hbuf, herr, hflags, hvalid⟩ := h
  simpa only [receiverSound, State.ReceptionInv, State.BufferInv, State.ErrorFlagsInv, State.readBuf, hcfg,
    hst, hpos, hlen, hbuf, herr, hflags, hvalid] using hs

/-- A command that is none of the receiver's leaves the receiver alone, as the registers' writers say. -/
theorem exec_sameReceiver {i : Instr} {s t : State} (h : exec i s = .next t) (harm : ∀ x, i ≠ .rxArm x)
    (hbyte : ∀ v x, i ≠ .rxByte v x) (hpoll : ∀ x, i ≠ .rxPoll x) (hclr : i ≠ .rxClrerr) :
    SameReceiver s t := by
  obtain ⟨hcfg, -, -, -, -, -, -, -, hst, -, hrecord, herr, -⟩ :=
    registersWrittenOnlyByTheirCommands i s t h
  simp only [harm, hbyte, hpoll, hclr, exists_false, or_false, imp_false, not_or, not_not]
    at hst hrecord herr
  obtain ⟨hlen, hbuf, -, -, hvalid⟩ := hrecord
  exact ⟨hcfg, hst.1, hst.2, hlen, hbuf, herr.1, herr.2, hvalid⟩

/-- Every command keeps the receiver's invariants. -/
theorem exec_receiverSound {i : Instr} {s t : State} (h : exec i s = .next t) (hs : receiverSound s) :
    receiverSound t := by
  cases i with
  | rxArm x =>
    rcases exec_next_cases h with ⟨-, rfl⟩ | ⟨code, -, rfl⟩
    · obtain ⟨-, hbuf, herr⟩ := hs
      exact ⟨(receptionInv_awaitStart rfl).2 rfl, hbuf, herr⟩
    · exact hs
  | rxByte v x =>
    rw [exec_rxByte] at h
    cases h
    exact (receiveByte_taken v x s).receiverSound hs
  | rxPoll x =>
    rw [exec_rxPoll] at h
    cases h
    exact pollWindows_receiverSound hs x
  | rxClrerr =>
    rw [rxClrerrResult.2 s] at h
    cases h
    obtain ⟨hreception, hbuf, -⟩ := hs
    exact ⟨hreception, hbuf, noError_errorFlagsInv rfl⟩
  | tmSet _ | tmMark _ | tmElapsed _ _ | dbSample _ _ | dbTick | dbRdstable _ | dbWrstable _ _ | ckInit
  | ckUpdate _ | ckRead | ckVerify _ | rxStatus | rxRdbuf _ =>
    exact (exec_sameReceiver h nofun nofun nofun nofun).sound hs

theorem resetWith_receiverSound (c : Config) : receiverSound (State.resetWith c) :=
  ⟨rfl, ⟨rfl, fun off _ => readBuf_resetWith c off, readBuf_resetWith c 0, nofun⟩, noError_errorFlagsInv rfl⟩

/-- Settles O13: every command keeps the receiver's invariants, a reset establishes them, and the
ports and the fault do not matter to them. -/
theorem stepKeepsReceiverSound : Obligations.StepKeepsReceiverSound := fun _ _ =>
  step_keeps (fun _ _ _ _ _ hs => hs) (fun _ _ _ => exec_receiverSound) resetWith_receiverSound

/-! ### RX_BYTE's frame -/

/-- The verdict on a frame leaves the buffer and the two checksum registers alone (43_receiver.md R201). -/
theorem complete_keeps (s : State) :
    (complete s).rxBuf = s.rxBuf ∧ (complete s).rxAcc = s.rxAcc ∧ (complete s).rxCk = s.rxCk := by
  cases hverdict : checksumVerify s.cfg s.rxCk s.rxAcc with
  | true => rw [complete_good hverdict]; exact ⟨rfl, rfl, rfl⟩
  | false => rw [complete_bad hverdict]; exact ⟨rfl, rfl, rfl⟩

theorem startFrame_readBuf (v : Byte) (t : Half) (s : State) {a : Nat} (h0 : a ≠ 0) (h2 : a ≠ 2) :
    (startFrame v t s).readBuf a = s.readBuf a :=
  (readBuf_writeBuf_other _ v h2).trans (readBuf_writeBuf_other { s with frameValid := false } 0 h0)

theorem startsFrame_of_ready {t : Half} {s : State} (h : readyForFrame t s) : startsFrame t s = true := by
  rcases h with ⟨hst, hpolicy⟩ | ⟨hst, hgap⟩ <;> simp only [startsFrame, hst]
  · exact decide_eq_true hpolicy
  · rw [decide_eq_true hgap, Bool.true_or]

theorem startsFrame_of_timesOut {t : Half} {s : State} {code : ErrCode} (h : TimesOut t s code)
    (hpolicy : s.cfg.idleBytePolicy = .startFrame) : startsFrame t s = true := by
  rcases h with ⟨hst, -, -⟩ | ⟨hst | hst | hst, hlate, -⟩
  · simp [startsFrame, hst, hpolicy]
  all_goals simp [startsFrame, hst, hpolicy, hlate]

theorem storedOffsets_of_startsFrame {t : Half} {s : State} (h : startsFrame t s = true) :
    storedOffsets t s = [0, 2] :=
  if_pos h

/-- A byte within T_GAP of a running reception goes into that reception. -/
theorem startsFrame_within {t : Half} {s : State} (hst : inFrame s) (hgap : gap t s.rxMark ≤ s.cfg.tGap) :
    startsFrame t s = false := by
  have hlate : ¬ s.cfg.tGap < gap t s.rxMark := Nat.not_lt.2 hgap
  rcases hst with hst | hst | hst <;> simp only [startsFrame, hst, hlate, decide_false, Bool.false_and]

theorem storedOffsets_header {t : Half} {s : State} (hst : s.rxState = .header)
    (hgap : gap t s.rxMark ≤ s.cfg.tGap) :
    storedOffsets t s = if s.rxPos = 1 then [3] else [1] := by
  simp only [storedOffsets, startsFrame_within (.inl hst) hgap, Nat.not_lt.2 hgap, hst, if_false,
    Bool.false_eq_true]

theorem storedOffsets_payload {t : Half} {s : State} (hst : s.rxState = .payload)
    (hgap : gap t s.rxMark ≤ s.cfg.tGap) : storedOffsets t s = [4 + s.rxPos.toNat] := by
  simp only [storedOffsets, startsFrame_within (.inr (.inl hst)) hgap, Nat.not_lt.2 hgap, hst, if_false,
    Bool.false_eq_true]

/-- A received byte stores to no other offset of RXBUF (43_receiver.md R195, R196, R199). -/
theorem ByteTaken.readBuf {v : Byte} {t : Half} {s u : State} (h : ByteTaken v t s u) {a : Nat}
    (ha : a ∉ storedOffsets t s) : u.readBuf a = s.readBuf a := by
  have hstored {off : Nat} (hoff : storedOffsets t s = [off]) :
      (storeByte off v t s).readBuf a = s.readBuf a := by
    rw [hoff, List.mem_singleton] at ha
    exact readBuf_writeBuf_other { s with rxMark := t, rxAcc := _ } v ha
  have hstarted (hstarts : startsFrame t s = true) : a ≠ 0 ∧ a ≠ 2 := by
    rw [storedOffsets_of_startsFrame hstarts] at ha
    simpa using ha
  cases h with
  | ignored _ | unexpected _ | late _ | crcHigh _ _ => rfl
  | first hready =>
    obtain ⟨h0, h2⟩ := hstarted (startsFrame_of_ready hready)
    exact startFrame_readBuf v t s h0 h2
  | lateFirst hlate hpolicy =>
    obtain ⟨h0, h2⟩ := hstarted (startsFrame_of_timesOut hlate hpolicy)
    exact startFrame_readBuf v t _ h0 h2
  | fromSane hst hgap hpos | fromInsane hst hgap hpos =>
    exact hstored ((storedOffsets_header hst hgap).trans (if_pos hpos))
  | lenFits hst hgap hpos _ | lenLong hst hgap hpos =>
    exact hstored ((storedOffsets_header hst hgap).trans (if_neg hpos))
  | payloadLast hst hgap _ | payloadMore hst hgap _ => exact hstored (storedOffsets_payload hst hgap)
  | completed _ =>
    rw [State.readBuf, (complete_keeps _).1]
    rfl

/-- Settles O46, by everything a received byte can do. -/
theorem rxByteFrame : Obligations.RxByteFrame :=
  ⟨issues_of_row (r := ⟨0x31, false, false, fun a b => .rxByte a b⟩) rfl, fun v t s =>
    ⟨_, exec_rxByte v t s,
      congrArg (fun u : State => { u with response := some 0 }) (receiveByte_receivesTo v t s).1,
      fun _ ha => (receiveByte_taken v t s).readBuf ha⟩⟩

/-! ### The checksum registers under XOR8 (42_checksum.md R162) -/

theorem checksumFold_xor8_lt {c : Config} (h : c.ckPolicy = .xor8) {acc : Half} (hacc : acc.toNat < 256)
    (v : Byte) : (checksumFold c acc v).toNat < 256 := by
  rw [checksumFold_xor8 h, BitVec.toNat_xor, toNat_setWidth_byte]
  exact Nat.xor_lt_two_pow (n := 8) hacc v.isLt

theorem checksumStart_xor8_lt {c : Config} (h : c.ckPolicy = .xor8) : (checksumStart c).toNat < 256 := by
  rw [checksumStart_xor8 h]
  decide

theorem startFrame_checksums (v : Byte) (t : Half) (s : State) :
    (startFrame v t s).rxAcc = checksumFold s.cfg (checksumStart s.cfg) v
      ∧ (startFrame v t s).rxCk = s.rxCk := by
  simp [startFrame]

/-- Under XOR8 every received byte keeps RXACC and RXCK bytes. -/
theorem ByteTaken.checksums_lt {v : Byte} {t : Half} {s u : State} (h : ByteTaken v t s u)
    (hpolicy : s.cfg.ckPolicy = .xor8) (hs : s.rxAcc.toNat < 256 ∧ s.rxCk.toNat < 256) :
    u.rxAcc.toNat < 256 ∧ u.rxCk.toNat < 256 := by
  have ⟨hacc, hck⟩ := hs
  have hstored (off : Nat) :
      (storeByte off v t s).rxAcc.toNat < 256 ∧ (storeByte off v t s).rxCk.toNat < 256 := by
    rw [writeBuf_rxAcc, writeBuf_rxCk]
    exact ⟨checksumFold_xor8_lt hpolicy hacc v, hck⟩
  have hstarted : (checksumFold s.cfg (checksumStart s.cfg) v).toNat < 256 :=
    checksumFold_xor8_lt hpolicy (checksumStart_xor8_lt hpolicy) v
  cases h with
  | ignored _ | unexpected _ | late _ => exact hs
  | first _ | lateFirst _ _ =>
    rw [(startFrame_checksums v t _).1, (startFrame_checksums v t _).2]
    exact ⟨hstarted, hck⟩
  | fromSane _ _ _ | fromInsane _ _ _ | lenFits _ _ _ _ | lenLong _ _ _ | payloadLast _ _ _
  | payloadMore _ _ _ => exact hstored _
  | crcHigh _ hcrc =>
    rw [hpolicy] at hcrc
    cases hcrc
  | completed _ =>
    obtain ⟨-, hacc', hck'⟩ := complete_keeps { s with rxMark := t, rxCk := receivedChecksum v s }
    rw [hacc', hck', receivedChecksum, hpolicy]
    exact ⟨hacc, by rw [toNat_setWidth_byte]; exact v.isLt⟩

/-- A command that is neither CK_INIT, CK_UPDATE nor RX_BYTE leaves the checksum registers alone. -/
theorem exec_sameChecksums {i : Instr} {s t : State} (h : exec i s = .next t) (hinit : i ≠ .ckInit)
    (hupdate : ∀ v, i ≠ .ckUpdate v) (hbyte : ∀ v x, i ≠ .rxByte v x) :
    t.txAcc = s.txAcc ∧ t.rxAcc = s.rxAcc ∧ t.rxCk = s.rxCk := by
  obtain ⟨-, -, -, -, -, -, -, htx, -, -, hrx, -⟩ := registersWrittenOnlyByTheirCommands i s t h
  simp only [hinit, hupdate, hbyte, exists_false, or_false, imp_false, not_or, not_not] at htx hrx
  obtain ⟨-, -, hacc, hck, -⟩ := hrx
  exact ⟨htx, hacc, hck⟩

/-- Every command keeps the checksum registers of XOR8 bytes. -/
theorem exec_xorRegistersAreBytes {i : Instr} {s t : State} (h : exec i s = .next t)
    (hs : s.XorRegistersAreBytes) : t.XorRegistersAreBytes := by
  intro hpolicy
  rw [(exec_appendsLegal h).1] at hpolicy
  obtain ⟨htx, hrx⟩ := hs hpolicy
  cases i with
  | ckInit =>
    rw [ckInitResult.2 s] at h
    cases h
    exact ⟨checksumStart_xor8_lt hpolicy, hrx⟩
  | ckUpdate v =>
    rw [ckUpdateResult.2 v s] at h
    cases h
    exact ⟨checksumFold_xor8_lt hpolicy htx v, hrx⟩
  | rxByte v x =>
    rw [exec_rxByte] at h
    cases h
    refine ⟨?_, (receiveByte_taken v x s).checksums_lt hpolicy hrx⟩
    rw [(receiveByte_receivesTo v x s).1]
    exact htx
  | tmSet _ | tmMark _ | tmElapsed _ _ | dbSample _ _ | dbTick | dbRdstable _ | dbWrstable _ _ | ckRead
  | ckVerify _ | rxArm _ | rxPoll _ | rxStatus | rxClrerr | rxRdbuf _ =>
    obtain ⟨htx', hacc', hck'⟩ := exec_sameChecksums h nofun nofun nofun
    rw [htx', hacc', hck']
    exact ⟨htx, hrx⟩

theorem resetWith_xorRegistersAreBytes (c : Config) : (State.resetWith c).XorRegistersAreBytes :=
  have hzero : (0 : Half).toNat < 256 := by decide
  fun hpolicy => ⟨checksumStart_xor8_lt hpolicy, hzero, hzero⟩

/-- Settles O16: every command keeps the registers bytes, a reset makes them bytes, and the rest of the
state does not matter to them. -/
theorem stepKeepsXorRegistersBytes : Obligations.StepKeepsXorRegistersBytes := fun _ _ =>
  step_keeps (fun _ _ _ _ _ hs => hs) (fun _ _ _ => exec_xorRegistersAreBytes) resetWith_xorRegistersAreBytes

end Sys2Proof.Proofs

/-! PROOFS. 60_exceptions.md R250, R253 with 10_state.md R44, R45: the fault a command raises, the record
it leaves, and what of the state shows in a response or a fault. -/

namespace Sys2Proof.Proofs

open Sys2Proof.Machine Sys2Proof.Claims

/-! ### The record of a fault (10_state.md R44, 60_exceptions.md R250) -/

/-- FAULT_WORD is written by fault entry alone. -/
theorem effect_faultWord (s : State) (i : Instr) : (effect s i).faultWord = s.faultWord := by
  cases i with
  | tmElapsed slot d => simp only [effect]; split <;> rfl
  | dbSample j v => rw [effect, sampleByte_frame]
  | dbTick => rw [effect, (tickAll_ticksTo s).1]
  | dbWrstable j v => rw [effect, writeStableByte_frame]
  | rxByte v t => rw [effect, (receiveByte_receivesTo v t s).1]
  | rxPoll t =>
    rcases pollWindows_cases t s with h | ⟨code, pos, -, h⟩
    · rw [effect, h]
    · rw [effect, h]
      exact report_faultWord s code
  | tmSet _ | tmMark _ | dbRdstable _ | ckInit | ckUpdate _ | ckRead | ckVerify _ | rxArm _ | rxStatus
  | rxClrerr | rxRdbuf _ => rfl

theorem faultRecord_running {s : State} (h : s.fault = none) : s.FaultRecord ↔ s.faultWord = 0 := by
  rw [State.FaultRecord, h]

/-- What a fault raised inside a command says of the command and the state (60_exceptions.md R250). -/
theorem faultOf_eq_some_cases {i : Instr} {s : State} {code : FaultCode} (h : faultOf i s = some code) :
    (code = .indexRange ∧ i.wellFormed s.cfg = false)
      ∨ (code = .armNotIdle ∧ (∃ t, i = .rxArm t) ∧ s.rxState ≠ .idle)
      ∨ (code = .notAliasMode ∧ (∃ j v, i = .dbWrstable j v) ∧ s.cfg.aliasMode = false) := by
  have hrange {size idx : Nat} {raised : FaultCode}
      (hf : (if size ≤ idx then some FaultCode.indexRange else none) = some raised) :
      raised = .indexRange ∧ decide (idx < size) = false := by
    obtain ⟨hout, rfl⟩ := le_of_rangeFault_some hf
    exact ⟨rfl, decide_eq_false (Nat.not_lt.2 hout)⟩
  cases i with
  | tmMark _ | tmElapsed _ _ | dbSample _ _ | dbRdstable _ | rxRdbuf _ => exact .inl (hrange h)
  | dbWrstable j v =>
    simp only [faultOf] at h
    split at h
    next hout =>
      cases h
      exact .inl ⟨rfl, decide_eq_false (Nat.not_lt.2 hout)⟩
    next =>
      simp only [Option.ite_none_left_eq_some, Option.some.injEq] at h
      obtain ⟨halias, rfl⟩ := h
      exact .inr (.inr ⟨rfl, ⟨j, v, rfl⟩, Bool.not_eq_true _ ▸ halias⟩)
  | rxArm t =>
    simp only [faultOf, Option.ite_none_left_eq_some, Option.some.injEq] at h
    obtain ⟨hbusy, rfl⟩ := h
    exact .inr (.inl ⟨rfl, ⟨t, rfl⟩, hbusy⟩)
  | tmSet _ | dbTick | ckInit | ckUpdate _ | ckRead | ckVerify _ | rxByte _ _ | rxPoll _ | rxStatus
  | rxClrerr => cases h

/-- A command on a running block leaves a true record of its fault, or none. -/
theorem exec_faultRecord {i : Instr} {s t : State} (hrun : s.fault = none) (hs : s.FaultRecord)
    (h : exec i s = .next t) : t.FaultRecord := by
  have hdec := decodeEncodeAgree i
  rcases exec_next_cases h with ⟨-, rfl⟩ | ⟨code, hf, rfl⟩
  · refine (faultRecord_running ?_).2 ?_
    · exact (effect_fault s i).trans hrun
    · exact (effect_faultWord s i).trans ((faultRecord_running hrun).1 hs)
  · rcases faultOf_eq_some_cases hf with ⟨rfl, hwf⟩ | ⟨rfl, ⟨x, rfl⟩, hbusy⟩ | ⟨rfl, ⟨j, v, rfl⟩, halias⟩
    · exact ⟨i, hdec, hwf⟩
    · exact ⟨⟨x, hdec⟩, hbusy⟩
    · exact ⟨⟨j, v, hdec⟩, halias⟩

/-- A rejected word's record is true: FAULT_WORD is the word itself (30_encoding.md R84, R85). -/
theorem rejected_faultRecord {w : Word} {r : Reject} (hdec : decode w = .error r) (s : State) :
    State.FaultRecord { s with fault := some (rejectFault r), faultWord := w } := by
  cases r with
  | illegalCommand => exact hdec
  | reservedField => exact hdec

theorem resetWith_faultRecord (c : Config) : (State.resetWith c).FaultRecord := by
  cases hlegal : configLegal c with
  | true =>
    have hrun : (State.resetWith c).fault = none := if_pos hlegal
    exact (faultRecord_running hrun).2 rfl
  | false =>
    have hbad : (State.resetWith c).fault = some .badConfig := if_neg (Bool.eq_false_iff.1 hlegal)
    rw [State.FaultRecord, hbad]
    exact ⟨rfl, hlegal⟩

/-- Settles O14, by what the step does: a halted block keeps its record, a running one leaves the record
of the word it consumed. -/
theorem stepKeepsFaultRecord : Obligations.StepKeepsFaultRecord := by
  intro s t hs h
  rcases step_next_cases h with ⟨-, rfl⟩ | ⟨w, rest, -, -, rfl⟩ | ⟨w, rest, i, -, hrun, -, he⟩
    | ⟨w, rest, r, -, -, hdec, rfl⟩ | ⟨c, rest, -, rfl⟩
  · exact hs
  · exact hs
  · exact exec_faultRecord (s := { s with inputs := rest }) hrun hs he
  · exact rejected_faultRecord hdec { s with inputs := rest, response := none }
  · exact resetWith_faultRecord c

/-! ### The fault a command raises -/

/-- Settles O20, by whether the command has a cause of a fault. -/
theorem faultCausesExact : Obligations.FaultCausesExact := by
  intro i s hrun
  cases hf : faultOf i s with
  | none => exact ⟨_, exec_of_faultOf_none hf, (effect_fault s i).trans hrun, by simp⟩
  | some code => exact ⟨_, exec_of_faultOf_some hf, rfl, by simp⟩

/-! ### What the host cannot read (10_state.md R45) -/

theorem rxStateCode_eq_zero_iff (st : RxState) : (rxStateCode st).toNat = 0 ↔ st = .idle := by
  cases st <;> decide

/-- The status word shows whether the receiver is in IDLE. -/
theorem idle_iff_of_statusWord_eq {s u : State} (h : statusWord s = statusWord u) :
    s.rxState = .idle ↔ u.rxState = .idle := by
  rw [← rxStateCode_eq_zero_iff, ← rxStateCode_eq_zero_iff, ← statusWord_rxState, ← statusWord_rxState, h]

theorem faultOf_eq_of_sameVisible {s u : State} (h : sameVisible s u) (i : Instr) :
    faultOf i s = faultOf i u := by
  obtain ⟨hcfg, -, -, -, -, hstatus, -⟩ := h
  cases i with
  | rxArm t => simp only [faultOf, idle_iff_of_statusWord_eq hstatus]
  | tmMark _ | tmElapsed _ _ | dbSample _ _ | dbRdstable _ | dbWrstable _ _ | rxRdbuf _ =>
    simp only [faultOf, hcfg]
  | tmSet _ | dbTick | ckInit | ckUpdate _ | ckRead | ckVerify _ | rxByte _ _ | rxPoll _ | rxStatus
  | rxClrerr => rfl

theorem answer_eq_of_sameVisible {s u : State} (h : sameVisible s u) (i : Instr) :
    answer s i = answer u i := by
  obtain ⟨hcfg, hnow, hmark, hstable, htx, hstatus, hbuf, -⟩ := h
  cases i with
  | tmElapsed slot d =>
    have hread : s.readMark slot.toNat = u.readMark slot.toNat := by rw [State.readMark, State.readMark, hmark]
    rw [answer, answer, hnow, hread]
  | dbRdstable j => simp only [answer, State.stableByte, hcfg, hstable]
  | ckRead => exact htx
  | ckVerify e => simp only [answer, hcfg, htx]
  | rxStatus => exact hstatus
  | rxRdbuf k => simp only [answer, State.readBuf, hbuf]
  | tmSet _ | tmMark _ | dbSample _ _ | dbTick | dbWrstable _ _ | ckInit | ckUpdate _ | rxArm _
  | rxByte _ _ | rxPoll _ | rxClrerr => rfl

/-- Settles O21: the cause of a fault and the response are made of what the host can read. -/
theorem hiddenStateDoesNotShow : Obligations.HiddenStateDoesNotShow := by
  intro i s u s' u' hsame hs hu
  have hfault := faultOf_eq_of_sameVisible hsame i
  have hanswer := answer_eq_of_sameVisible hsame i
  obtain ⟨-, -, -, -, -, -, -, -, hkept⟩ := hsame
  cases hf : faultOf i s with
  | none =>
    rw [exec_of_faultOf_none hf] at hs
    rw [exec_of_faultOf_none (hfault ▸ hf)] at hu
    cases hs
    cases hu
    exact ⟨congrArg some hanswer, (effect_fault s i).trans (hkept.trans (effect_fault u i).symm)⟩
  | some code =>
    rw [exec_of_faultOf_some hf] at hs
    rw [exec_of_faultOf_some (hfault ▸ hf)] at hu
    cases hs
    cases hu
    exact ⟨rfl, rfl⟩

end Sys2Proof.Proofs

/-! PROOFS. 70_reset_and_hazards.md R281 with 00_scope.md R6, R7: which configurations a reset refuses, and
the invariants right after it. -/

namespace Sys2Proof.Proofs

open Sys2Proof.Machine Sys2Proof.Claims

/-! ### The legal configurations (00_scope.md R6, 60_exceptions.md R255) -/

/-- STABLE_INIT as the debouncer sees it is all zero exactly when no input's bit is set; padding bits do
not count. -/
theorem initialStable_eq_zero_iff (c : Config) :
    initialStable c = List.replicate (byteCount c) 0
      ↔ ∀ i, i < c.inputCount → bitRead c.stableInit i = false := by
  constructor
  · intro h i hi
    rw [← bitRead_initialStable c i hi, h, bitRead_replicate_zero]
  · intro h
    refine List.eq_replicate_iff.2 ⟨length_initialStable c, fun b hb => ?_⟩
    obtain ⟨j, -, rfl⟩ := List.mem_map.1 hb
    refine BitVec.eq_of_getLsbD_eq fun k hk => ?_
    rw [getLsbD_presentByte]
    refine Eq.trans ?_ BitVec.getLsbD_zero.symm
    by_cases hin : 8 * j + k < c.inputCount
    · rw [h _ hin, Bool.and_false]
    · rw [decide_eq_false hin, Bool.and_false, Bool.false_and]

theorem stableInitLegal_iff (c : Config) :
    stableInitLegal c = true ↔ c.stableInit.length = (c.inputCount + 7) / 8
      ∧ (c.aliasMode = false → ∀ i, i < c.inputCount → bitRead c.stableInit i = false) := by
  rw [stableInitLegal, Bool.and_eq_true, Bool.or_eq_true, beq_iff_eq, beq_iff_eq, initialStable_eq_zero_iff,
    byteCount]
  cases c.aliasMode <;> simp

theorem configLegal_iff (c : Config) :
    configLegal c = true ↔
      (1 ≤ c.inputCount ∧ c.inputCount ≤ 524288) ∧ (1 ≤ c.onCount ∧ c.onCount ≤ 15)
        ∧ (1 ≤ c.offCount ∧ c.offCount ≤ 15) ∧ c.stableInit.length = (c.inputCount + 7) / 8
        ∧ (c.aliasMode = false → ∀ i, i < c.inputCount → bitRead c.stableInit i = false)
        ∧ (1 ≤ c.timerSlots ∧ c.timerSlots ≤ 256) ∧ c.crcInit ≤ 65535 ∧ c.tStart ≤ 65535
        ∧ c.tGap ≤ 65535 ∧ (4 ≤ c.recvBufferSize ∧ c.recvBufferSize ≤ 259) ∧ c.busId ≤ 254 := by
  simp only [configLegal, Bool.and_eq_true, decide_eq_true_eq, stableInitLegal_iff, and_assoc]

theorem fault_resetWith_eq_none_iff (c : Config) :
    (State.resetWith c).fault = none ↔ configLegal c = true := by
  show (if configLegal c then none else some FaultCode.badConfig) = none ↔ _
  simp

/-- Settles O10, by the ranges the check at reset tests. -/
theorem badConfigExactly : Obligations.BadConfigExactly := fun c =>
  ⟨rfl, (fault_resetWith_eq_none_iff c).trans (configLegal_iff c), fault_resetWith_cases c⟩

/-! ### The invariants right after a reset -/

theorem resetWith_configChecked (c : Config) : (State.resetWith c).ConfigChecked :=
  (fault_resetWith_cases c).imp_left (fault_resetWith_eq_none_iff c).1

theorem reset_running : State.reset.Running :=
  (fault_resetWith_eq_none_iff Config.reference).2 (by decide)

/-- Settles O11, invariant by invariant. -/
theorem resetStateIsSound : Obligations.ResetStateIsSound :=
  ⟨fun c => ⟨⟨resetWith_configChecked c, resetWith_debouncerKept c⟩, resetWith_receiverSound c,
    resetWith_xorRegistersAreBytes c, fun _ he => absurd he List.not_mem_nil, resetWith_faultRecord c⟩,
    rfl, reset_running⟩

end Sys2Proof.Proofs

/-! PROOFS. 20_memory.md R64 to R67: the frame record, its successor and its re-send, and the sizes on the
wire (42_checksum.md R170). -/

namespace Sys2Proof.Proofs

open Sys2Proof.Machine Sys2Proof.Claims

/-! ### The frame record (20_memory.md R64, R66, R67) -/

theorem length_frameRecord (f : CommFrame) : (frameRecord f).length = f.payload.length + 4 := rfl

theorem byteAt_frameRecord_payload (f : CommFrame) (k : Nat) :
    byteAt (frameRecord f) (4 + k) = byteAt f.payload k := by
  rw [Nat.add_comm]
  rfl

theorem length_checksumBytes (c : Config) (acc : Half) : (checksumBytes c acc).length = ckLen c := by
  rw [checksumBytes, ckLen]
  cases c.ckPolicy <;> rfl

/-- The bytes of an encoded frame are as many as its transmitted size (42_checksum.md R170). -/
theorem length_encodeFrame {c : Config} {toAddr fromAddr : Byte} {payload bytes : List Byte}
    (h : encodeFrame c toAddr fromAddr payload = some bytes) :
    bytes.length = payload.length + 3 + ckLen c := by
  obtain ⟨-, rfl⟩ := encodeFrame_eq_some_iff.1 h
  rw [List.length_append, length_checksumBytes]
  rfl

/-- A re-send below 255 counts up without wrapping (20_memory.md R67). -/
theorem resend_below {f : CommFrame} (h : f.retryCount ≠ 0xFF) :
    resend f = some { f with retryCount := f.retryCount + 1 }
      ∧ (f.retryCount + 1).toNat = f.retryCount.toNat + 1 :=
  ⟨if_neg h, by bv_omega⟩

/-- Settles O44, record, sizes, successor and re-send one by one. -/
theorem frameRecordLayout : Obligations.FrameRecordLayout := by
  refine ⟨fun f hlen => ⟨length_frameRecord f, rfl, toNat_lenByte hlen, rfl, rfl, fun k _ =>
    byteAt_frameRecord_payload f k⟩, fun _ _ _ _ _ => length_encodeFrame, fun _ _ => rfl, fun f =>
    ⟨fun hmax => if_pos hmax, fun hbelow => ?_⟩⟩
  obtain ⟨hresend, hcount⟩ := resend_below hbelow
  exact ⟨_, hresend, hcount, rfl⟩

end Sys2Proof.Proofs
